-- ==== Sys2Proof/Word.lean ====
section
/-! DEFINITION. The word types of the machine: bytes and 16-bit addresses (00_scope.md R15, R16). -/

namespace Sys2Proof

/-- An 8-bit value, the spec's `u8`. -/
abbrev Byte := BitVec 8

/-- A 16-bit value, the spec's `u16`; every address is one (20_memory.md R43, R44). -/
abbrev Addr := BitVec 16

end Sys2Proof
end

