-- ==== Sys2Proof/Syntax.lean ====
section
/-! DEFINITION. The instruction set as syntax: mnemonics, addressing modes, operands, and one constructor of `Instr`
per row of spec/opcode_table.json (30_encoding.md R72, R73, R76). -/

namespace Sys2Proof

/-- The 56 mnemonics (00_scope.md R2). -/
inductive Mnemonic where
  | adc | and | asl | bcc | bcs | beq | bit | bmi
  | bne | bpl | brk | bvc | bvs | clc | cld | cli
  | clv | cmp | cpx | cpy | dec | dex | dey | eor
  | inc | inx | iny | jmp | jsr | lda | ldx | ldy
  | lsr | nop | ora | pha | php | pla | plp | rol
  | ror | rti | rts | sbc | sec | sed | sei | sta
  | stx | sty | tax | tay | tsx | txa | txs | tya
  deriving DecidableEq, Repr

/-- The 13 addressing modes (30_encoding.md R73). -/
inductive Mode where
  | imp | acc | imm | zp | zpx | zpy | abs | absx | absy | ind | izx | izy | rel
  deriving DecidableEq, Repr

/-- An operand in memory, with its operand bytes: the modes whose effective address holds the operand
(30_encoding.md R86 to R91, R93, R94). `z` is the zero-page byte `b1`; `addr` is `(b2, b1)` joined. -/
inductive MemOperand where
  | zp (z : Byte)
  | zpx (z : Byte)
  | zpy (z : Byte)
  | abs (addr : Addr)
  | absx (addr : Addr)
  | absy (addr : Addr)
  | izx (z : Byte)
  | izy (z : Byte)
  deriving DecidableEq, Repr

/-- An operand of any mode, with its operand bytes (30_encoding.md R83 to R95). -/
inductive Operand where
  | imp
  | acc
  | imm (v : Byte)
  | mem (m : MemOperand)
  | ind (ptr : Addr)
  | rel (d : Byte)
  deriving DecidableEq, Repr

/-- The addressing mode of a memory operand. -/
def MemOperand.mode : MemOperand → Mode
  | .zp _ => .zp
  | .zpx _ => .zpx
  | .zpy _ => .zpy
  | .abs _ => .abs
  | .absx _ => .absx
  | .absy _ => .absy
  | .izx _ => .izx
  | .izy _ => .izy

/-- The addressing mode of an operand. -/
def Operand.mode : Operand → Mode
  | .imp => .imp
  | .acc => .acc
  | .imm _ => .imm
  | .mem m => m.mode
  | .ind _ => .ind
  | .rel _ => .rel

/-- One constructor per row of spec/opcode_table.json, in the table's order. -/
inductive Instr where
  /-- BRK IMP, opcode $00 (R162). -/
  | brk
  /-- ORA IZX, opcode $01 (R113). -/
  | oraIzx (z : Byte)
  /-- ORA ZP, opcode $05 (R113). -/
  | oraZp (z : Byte)
  /-- ASL ZP, opcode $06 (R117). -/
  | aslZp (z : Byte)
  /-- PHP IMP, opcode $08 (R146). -/
  | php
  /-- ORA IMM, opcode $09 (R113). -/
  | oraImm (v : Byte)
  /-- ASL ACC, opcode $0A (R117). -/
  | aslAcc
  /-- ORA ABS, opcode $0D (R113). -/
  | oraAbs (addr : Addr)
  /-- ASL ABS, opcode $0E (R117). -/
  | aslAbs (addr : Addr)
  /-- BPL REL, opcode $10 (R138). -/
  | bpl (d : Byte)
  /-- ORA IZY, opcode $11 (R113). -/
  | oraIzy (z : Byte)
  /-- ORA ZPX, opcode $15 (R113). -/
  | oraZpx (z : Byte)
  /-- ASL ZPX, opcode $16 (R117). -/
  | aslZpx (z : Byte)
  /-- CLC IMP, opcode $18 (R149). -/
  | clc
  /-- ORA ABSY, opcode $19 (R113). -/
  | oraAbsy (addr : Addr)
  /-- ORA ABSX, opcode $1D (R113). -/
  | oraAbsx (addr : Addr)
  /-- ASL ABSX, opcode $1E (R117). -/
  | aslAbsx (addr : Addr)
  /-- JSR ABS, opcode $20 (R142). -/
  | jsr (addr : Addr)
  /-- AND IZX, opcode $21 (R112). -/
  | andIzx (z : Byte)
  /-- BIT ZP, opcode $24 (R115). -/
  | bitZp (z : Byte)
  /-- AND ZP, opcode $25 (R112). -/
  | andZp (z : Byte)
  /-- ROL ZP, opcode $26 (R119). -/
  | rolZp (z : Byte)
  /-- PLP IMP, opcode $28 (R148). -/
  | plp
  /-- AND IMM, opcode $29 (R112). -/
  | andImm (v : Byte)
  /-- ROL ACC, opcode $2A (R119). -/
  | rolAcc
  /-- BIT ABS, opcode $2C (R115). -/
  | bitAbs (addr : Addr)
  /-- AND ABS, opcode $2D (R112). -/
  | andAbs (addr : Addr)
  /-- ROL ABS, opcode $2E (R119). -/
  | rolAbs (addr : Addr)
  /-- BMI REL, opcode $30 (R136). -/
  | bmi (d : Byte)
  /-- AND IZY, opcode $31 (R112). -/
  | andIzy (z : Byte)
  /-- AND ZPX, opcode $35 (R112). -/
  | andZpx (z : Byte)
  /-- ROL ZPX, opcode $36 (R119). -/
  | rolZpx (z : Byte)
  /-- SEC IMP, opcode $38 (R150). -/
  | sec
  /-- AND ABSY, opcode $39 (R112). -/
  | andAbsy (addr : Addr)
  /-- AND ABSX, opcode $3D (R112). -/
  | andAbsx (addr : Addr)
  /-- ROL ABSX, opcode $3E (R119). -/
  | rolAbsx (addr : Addr)
  /-- RTI IMP, opcode $40 (R144). -/
  | rti
  /-- EOR IZX, opcode $41 (R114). -/
  | eorIzx (z : Byte)
  /-- EOR ZP, opcode $45 (R114). -/
  | eorZp (z : Byte)
  /-- LSR ZP, opcode $46 (R118). -/
  | lsrZp (z : Byte)
  /-- PHA IMP, opcode $48 (R145). -/
  | pha
  /-- EOR IMM, opcode $49 (R114). -/
  | eorImm (v : Byte)
  /-- LSR ACC, opcode $4A (R118). -/
  | lsrAcc
  /-- JMP ABS, opcode $4C (R141). -/
  | jmpAbs (addr : Addr)
  /-- EOR ABS, opcode $4D (R114). -/
  | eorAbs (addr : Addr)
  /-- LSR ABS, opcode $4E (R118). -/
  | lsrAbs (addr : Addr)
  /-- BVC REL, opcode $50 (R139). -/
  | bvc (d : Byte)
  /-- EOR IZY, opcode $51 (R114). -/
  | eorIzy (z : Byte)
  /-- EOR ZPX, opcode $55 (R114). -/
  | eorZpx (z : Byte)
  /-- LSR ZPX, opcode $56 (R118). -/
  | lsrZpx (z : Byte)
  /-- CLI IMP, opcode $58 (R151). -/
  | cli
  /-- EOR ABSY, opcode $59 (R114). -/
  | eorAbsy (addr : Addr)
  /-- EOR ABSX, opcode $5D (R114). -/
  | eorAbsx (addr : Addr)
  /-- LSR ABSX, opcode $5E (R118). -/
  | lsrAbsx (addr : Addr)
  /-- RTS IMP, opcode $60 (R143). -/
  | rts
  /-- ADC IZX, opcode $61 (R109). -/
  | adcIzx (z : Byte)
  /-- ADC ZP, opcode $65 (R109). -/
  | adcZp (z : Byte)
  /-- ROR ZP, opcode $66 (R120). -/
  | rorZp (z : Byte)
  /-- PLA IMP, opcode $68 (R147). -/
  | pla
  /-- ADC IMM, opcode $69 (R109). -/
  | adcImm (v : Byte)
  /-- ROR ACC, opcode $6A (R120). -/
  | rorAcc
  /-- JMP IND, opcode $6C (R141). -/
  | jmpInd (ptr : Addr)
  /-- ADC ABS, opcode $6D (R109). -/
  | adcAbs (addr : Addr)
  /-- ROR ABS, opcode $6E (R120). -/
  | rorAbs (addr : Addr)
  /-- BVS REL, opcode $70 (R140). -/
  | bvs (d : Byte)
  /-- ADC IZY, opcode $71 (R109). -/
  | adcIzy (z : Byte)
  /-- ADC ZPX, opcode $75 (R109). -/
  | adcZpx (z : Byte)
  /-- ROR ZPX, opcode $76 (R120). -/
  | rorZpx (z : Byte)
  /-- SEI IMP, opcode $78 (R152). -/
  | sei
  /-- ADC ABSY, opcode $79 (R109). -/
  | adcAbsy (addr : Addr)
  /-- ADC ABSX, opcode $7D (R109). -/
  | adcAbsx (addr : Addr)
  /-- ROR ABSX, opcode $7E (R120). -/
  | rorAbsx (addr : Addr)
  /-- STA IZX, opcode $81 (R104). -/
  | staIzx (z : Byte)
  /-- STY ZP, opcode $84 (R106). -/
  | styZp (z : Byte)
  /-- STA ZP, opcode $85 (R104). -/
  | staZp (z : Byte)
  /-- STX ZP, opcode $86 (R105). -/
  | stxZp (z : Byte)
  /-- DEY IMP, opcode $88 (R131). -/
  | dey
  /-- TXA IMP, opcode $8A (R158). -/
  | txa
  /-- STY ABS, opcode $8C (R106). -/
  | styAbs (addr : Addr)
  /-- STA ABS, opcode $8D (R104). -/
  | staAbs (addr : Addr)
  /-- STX ABS, opcode $8E (R105). -/
  | stxAbs (addr : Addr)
  /-- BCC REL, opcode $90 (R133). -/
  | bcc (d : Byte)
  /-- STA IZY, opcode $91 (R104). -/
  | staIzy (z : Byte)
  /-- STY ZPX, opcode $94 (R106). -/
  | styZpx (z : Byte)
  /-- STA ZPX, opcode $95 (R104). -/
  | staZpx (z : Byte)
  /-- STX ZPY, opcode $96 (R105). -/
  | stxZpy (z : Byte)
  /-- TYA IMP, opcode $98 (R159). -/
  | tya
  /-- STA ABSY, opcode $99 (R104). -/
  | staAbsy (addr : Addr)
  /-- TXS IMP, opcode $9A (R161). -/
  | txs
  /-- STA ABSX, opcode $9D (R104). -/
  | staAbsx (addr : Addr)
  /-- LDY IMM, opcode $A0 (R103). -/
  | ldyImm (v : Byte)
  /-- LDA IZX, opcode $A1 (R101). -/
  | ldaIzx (z : Byte)
  /-- LDX IMM, opcode $A2 (R102). -/
  | ldxImm (v : Byte)
  /-- LDY ZP, opcode $A4 (R103). -/
  | ldyZp (z : Byte)
  /-- LDA ZP, opcode $A5 (R101). -/
  | ldaZp (z : Byte)
  /-- LDX ZP, opcode $A6 (R102). -/
  | ldxZp (z : Byte)
  /-- TAY IMP, opcode $A8 (R157). -/
  | tay
  /-- LDA IMM, opcode $A9 (R101). -/
  | ldaImm (v : Byte)
  /-- TAX IMP, opcode $AA (R156). -/
  | tax
  /-- LDY ABS, opcode $AC (R103). -/
  | ldyAbs (addr : Addr)
  /-- LDA ABS, opcode $AD (R101). -/
  | ldaAbs (addr : Addr)
  /-- LDX ABS, opcode $AE (R102). -/
  | ldxAbs (addr : Addr)
  /-- BCS REL, opcode $B0 (R134). -/
  | bcs (d : Byte)
  /-- LDA IZY, opcode $B1 (R101). -/
  | ldaIzy (z : Byte)
  /-- LDY ZPX, opcode $B4 (R103). -/
  | ldyZpx (z : Byte)
  /-- LDA ZPX, opcode $B5 (R101). -/
  | ldaZpx (z : Byte)
  /-- LDX ZPY, opcode $B6 (R102). -/
  | ldxZpy (z : Byte)
  /-- CLV IMP, opcode $B8 (R155). -/
  | clv
  /-- LDA ABSY, opcode $B9 (R101). -/
  | ldaAbsy (addr : Addr)
  /-- TSX IMP, opcode $BA (R160). -/
  | tsx
  /-- LDY ABSX, opcode $BC (R103). -/
  | ldyAbsx (addr : Addr)
  /-- LDA ABSX, opcode $BD (R101). -/
  | ldaAbsx (addr : Addr)
  /-- LDX ABSY, opcode $BE (R102). -/
  | ldxAbsy (addr : Addr)
  /-- CPY IMM, opcode $C0 (R124). -/
  | cpyImm (v : Byte)
  /-- CMP IZX, opcode $C1 (R122). -/
  | cmpIzx (z : Byte)
  /-- CPY ZP, opcode $C4 (R124). -/
  | cpyZp (z : Byte)
  /-- CMP ZP, opcode $C5 (R122). -/
  | cmpZp (z : Byte)
  /-- DEC ZP, opcode $C6 (R127). -/
  | decZp (z : Byte)
  /-- INY IMP, opcode $C8 (R129). -/
  | iny
  /-- CMP IMM, opcode $C9 (R122). -/
  | cmpImm (v : Byte)
  /-- DEX IMP, opcode $CA (R130). -/
  | dex
  /-- CPY ABS, opcode $CC (R124). -/
  | cpyAbs (addr : Addr)
  /-- CMP ABS, opcode $CD (R122). -/
  | cmpAbs (addr : Addr)
  /-- DEC ABS, opcode $CE (R127). -/
  | decAbs (addr : Addr)
  /-- BNE REL, opcode $D0 (R137). -/
  | bne (d : Byte)
  /-- CMP IZY, opcode $D1 (R122). -/
  | cmpIzy (z : Byte)
  /-- CMP ZPX, opcode $D5 (R122). -/
  | cmpZpx (z : Byte)
  /-- DEC ZPX, opcode $D6 (R127). -/
  | decZpx (z : Byte)
  /-- CLD IMP, opcode $D8 (R153). -/
  | cld
  /-- CMP ABSY, opcode $D9 (R122). -/
  | cmpAbsy (addr : Addr)
  /-- CMP ABSX, opcode $DD (R122). -/
  | cmpAbsx (addr : Addr)
  /-- DEC ABSX, opcode $DE (R127). -/
  | decAbsx (addr : Addr)
  /-- CPX IMM, opcode $E0 (R123). -/
  | cpxImm (v : Byte)
  /-- SBC IZX, opcode $E1 (R110). -/
  | sbcIzx (z : Byte)
  /-- CPX ZP, opcode $E4 (R123). -/
  | cpxZp (z : Byte)
  /-- SBC ZP, opcode $E5 (R110). -/
  | sbcZp (z : Byte)
  /-- INC ZP, opcode $E6 (R126). -/
  | incZp (z : Byte)
  /-- INX IMP, opcode $E8 (R128). -/
  | inx
  /-- SBC IMM, opcode $E9 (R110). -/
  | sbcImm (v : Byte)
  /-- NOP IMP, opcode $EA (R163). -/
  | nop
  /-- CPX ABS, opcode $EC (R123). -/
  | cpxAbs (addr : Addr)
  /-- SBC ABS, opcode $ED (R110). -/
  | sbcAbs (addr : Addr)
  /-- INC ABS, opcode $EE (R126). -/
  | incAbs (addr : Addr)
  /-- BEQ REL, opcode $F0 (R135). -/
  | beq (d : Byte)
  /-- SBC IZY, opcode $F1 (R110). -/
  | sbcIzy (z : Byte)
  /-- SBC ZPX, opcode $F5 (R110). -/
  | sbcZpx (z : Byte)
  /-- INC ZPX, opcode $F6 (R126). -/
  | incZpx (z : Byte)
  /-- SED IMP, opcode $F8 (R154). -/
  | sed
  /-- SBC ABSY, opcode $F9 (R110). -/
  | sbcAbsy (addr : Addr)
  /-- SBC ABSX, opcode $FD (R110). -/
  | sbcAbsx (addr : Addr)
  /-- INC ABSX, opcode $FE (R126). -/
  | incAbsx (addr : Addr)
  deriving DecidableEq, Repr

/-- The mnemonic of the row a constructor stands for. -/
def Instr.mnemonic : Instr → Mnemonic
  | .brk => .brk
  | .oraIzx _ => .ora
  | .oraZp _ => .ora
  | .aslZp _ => .asl
  | .php => .php
  | .oraImm _ => .ora
  | .aslAcc => .asl
  | .oraAbs _ => .ora
  | .aslAbs _ => .asl
  | .bpl _ => .bpl
  | .oraIzy _ => .ora
  | .oraZpx _ => .ora
  | .aslZpx _ => .asl
  | .clc => .clc
  | .oraAbsy _ => .ora
  | .oraAbsx _ => .ora
  | .aslAbsx _ => .asl
  | .jsr _ => .jsr
  | .andIzx _ => .and
  | .bitZp _ => .bit
  | .andZp _ => .and
  | .rolZp _ => .rol
  | .plp => .plp
  | .andImm _ => .and
  | .rolAcc => .rol
  | .bitAbs _ => .bit
  | .andAbs _ => .and
  | .rolAbs _ => .rol
  | .bmi _ => .bmi
  | .andIzy _ => .and
  | .andZpx _ => .and
  | .rolZpx _ => .rol
  | .sec => .sec
  | .andAbsy _ => .and
  | .andAbsx _ => .and
  | .rolAbsx _ => .rol
  | .rti => .rti
  | .eorIzx _ => .eor
  | .eorZp _ => .eor
  | .lsrZp _ => .lsr
  | .pha => .pha
  | .eorImm _ => .eor
  | .lsrAcc => .lsr
  | .jmpAbs _ => .jmp
  | .eorAbs _ => .eor
  | .lsrAbs _ => .lsr
  | .bvc _ => .bvc
  | .eorIzy _ => .eor
  | .eorZpx _ => .eor
  | .lsrZpx _ => .lsr
  | .cli => .cli
  | .eorAbsy _ => .eor
  | .eorAbsx _ => .eor
  | .lsrAbsx _ => .lsr
  | .rts => .rts
  | .adcIzx _ => .adc
  | .adcZp _ => .adc
  | .rorZp _ => .ror
  | .pla => .pla
  | .adcImm _ => .adc
  | .rorAcc => .ror
  | .jmpInd _ => .jmp
  | .adcAbs _ => .adc
  | .rorAbs _ => .ror
  | .bvs _ => .bvs
  | .adcIzy _ => .adc
  | .adcZpx _ => .adc
  | .rorZpx _ => .ror
  | .sei => .sei
  | .adcAbsy _ => .adc
  | .adcAbsx _ => .adc
  | .rorAbsx _ => .ror
  | .staIzx _ => .sta
  | .styZp _ => .sty
  | .staZp _ => .sta
  | .stxZp _ => .stx
  | .dey => .dey
  | .txa => .txa
  | .styAbs _ => .sty
  | .staAbs _ => .sta
  | .stxAbs _ => .stx
  | .bcc _ => .bcc
  | .staIzy _ => .sta
  | .styZpx _ => .sty
  | .staZpx _ => .sta
  | .stxZpy _ => .stx
  | .tya => .tya
  | .staAbsy _ => .sta
  | .txs => .txs
  | .staAbsx _ => .sta
  | .ldyImm _ => .ldy
  | .ldaIzx _ => .lda
  | .ldxImm _ => .ldx
  | .ldyZp _ => .ldy
  | .ldaZp _ => .lda
  | .ldxZp _ => .ldx
  | .tay => .tay
  | .ldaImm _ => .lda
  | .tax => .tax
  | .ldyAbs _ => .ldy
  | .ldaAbs _ => .lda
  | .ldxAbs _ => .ldx
  | .bcs _ => .bcs
  | .ldaIzy _ => .lda
  | .ldyZpx _ => .ldy
  | .ldaZpx _ => .lda
  | .ldxZpy _ => .ldx
  | .clv => .clv
  | .ldaAbsy _ => .lda
  | .tsx => .tsx
  | .ldyAbsx _ => .ldy
  | .ldaAbsx _ => .lda
  | .ldxAbsy _ => .ldx
  | .cpyImm _ => .cpy
  | .cmpIzx _ => .cmp
  | .cpyZp _ => .cpy
  | .cmpZp _ => .cmp
  | .decZp _ => .dec
  | .iny => .iny
  | .cmpImm _ => .cmp
  | .dex => .dex
  | .cpyAbs _ => .cpy
  | .cmpAbs _ => .cmp
  | .decAbs _ => .dec
  | .bne _ => .bne
  | .cmpIzy _ => .cmp
  | .cmpZpx _ => .cmp
  | .decZpx _ => .dec
  | .cld => .cld
  | .cmpAbsy _ => .cmp
  | .cmpAbsx _ => .cmp
  | .decAbsx _ => .dec
  | .cpxImm _ => .cpx
  | .sbcIzx _ => .sbc
  | .cpxZp _ => .cpx
  | .sbcZp _ => .sbc
  | .incZp _ => .inc
  | .inx => .inx
  | .sbcImm _ => .sbc
  | .nop => .nop
  | .cpxAbs _ => .cpx
  | .sbcAbs _ => .sbc
  | .incAbs _ => .inc
  | .beq _ => .beq
  | .sbcIzy _ => .sbc
  | .sbcZpx _ => .sbc
  | .incZpx _ => .inc
  | .sed => .sed
  | .sbcAbsy _ => .sbc
  | .sbcAbsx _ => .sbc
  | .incAbsx _ => .inc

/-- The operand of an instruction, in the addressing mode of its row. -/
def Instr.operand : Instr → Operand
  | .brk => .imp
  | .oraIzx z => .mem (.izx z)
  | .oraZp z => .mem (.zp z)
  | .aslZp z => .mem (.zp z)
  | .php => .imp
  | .oraImm v => .imm v
  | .aslAcc => .acc
  | .oraAbs addr => .mem (.abs addr)
  | .aslAbs addr => .mem (.abs addr)
  | .bpl d => .rel d
  | .oraIzy z => .mem (.izy z)
  | .oraZpx z => .mem (.zpx z)
  | .aslZpx z => .mem (.zpx z)
  | .clc => .imp
  | .oraAbsy addr => .mem (.absy addr)
  | .oraAbsx addr => .mem (.absx addr)
  | .aslAbsx addr => .mem (.absx addr)
  | .jsr addr => .mem (.abs addr)
  | .andIzx z => .mem (.izx z)
  | .bitZp z => .mem (.zp z)
  | .andZp z => .mem (.zp z)
  | .rolZp z => .mem (.zp z)
  | .plp => .imp
  | .andImm v => .imm v
  | .rolAcc => .acc
  | .bitAbs addr => .mem (.abs addr)
  | .andAbs addr => .mem (.abs addr)
  | .rolAbs addr => .mem (.abs addr)
  | .bmi d => .rel d
  | .andIzy z => .mem (.izy z)
  | .andZpx z => .mem (.zpx z)
  | .rolZpx z => .mem (.zpx z)
  | .sec => .imp
  | .andAbsy addr => .mem (.absy addr)
  | .andAbsx addr => .mem (.absx addr)
  | .rolAbsx addr => .mem (.absx addr)
  | .rti => .imp
  | .eorIzx z => .mem (.izx z)
  | .eorZp z => .mem (.zp z)
  | .lsrZp z => .mem (.zp z)
  | .pha => .imp
  | .eorImm v => .imm v
  | .lsrAcc => .acc
  | .jmpAbs addr => .mem (.abs addr)
  | .eorAbs addr => .mem (.abs addr)
  | .lsrAbs addr => .mem (.abs addr)
  | .bvc d => .rel d
  | .eorIzy z => .mem (.izy z)
  | .eorZpx z => .mem (.zpx z)
  | .lsrZpx z => .mem (.zpx z)
  | .cli => .imp
  | .eorAbsy addr => .mem (.absy addr)
  | .eorAbsx addr => .mem (.absx addr)
  | .lsrAbsx addr => .mem (.absx addr)
  | .rts => .imp
  | .adcIzx z => .mem (.izx z)
  | .adcZp z => .mem (.zp z)
  | .rorZp z => .mem (.zp z)
  | .pla => .imp
  | .adcImm v => .imm v
  | .rorAcc => .acc
  | .jmpInd ptr => .ind ptr
  | .adcAbs addr => .mem (.abs addr)
  | .rorAbs addr => .mem (.abs addr)
  | .bvs d => .rel d
  | .adcIzy z => .mem (.izy z)
  | .adcZpx z => .mem (.zpx z)
  | .rorZpx z => .mem (.zpx z)
  | .sei => .imp
  | .adcAbsy addr => .mem (.absy addr)
  | .adcAbsx addr => .mem (.absx addr)
  | .rorAbsx addr => .mem (.absx addr)
  | .staIzx z => .mem (.izx z)
  | .styZp z => .mem (.zp z)
  | .staZp z => .mem (.zp z)
  | .stxZp z => .mem (.zp z)
  | .dey => .imp
  | .txa => .imp
  | .styAbs addr => .mem (.abs addr)
  | .staAbs addr => .mem (.abs addr)
  | .stxAbs addr => .mem (.abs addr)
  | .bcc d => .rel d
  | .staIzy z => .mem (.izy z)
  | .styZpx z => .mem (.zpx z)
  | .staZpx z => .mem (.zpx z)
  | .stxZpy z => .mem (.zpy z)
  | .tya => .imp
  | .staAbsy addr => .mem (.absy addr)
  | .txs => .imp
  | .staAbsx addr => .mem (.absx addr)
  | .ldyImm v => .imm v
  | .ldaIzx z => .mem (.izx z)
  | .ldxImm v => .imm v
  | .ldyZp z => .mem (.zp z)
  | .ldaZp z => .mem (.zp z)
  | .ldxZp z => .mem (.zp z)
  | .tay => .imp
  | .ldaImm v => .imm v
  | .tax => .imp
  | .ldyAbs addr => .mem (.abs addr)
  | .ldaAbs addr => .mem (.abs addr)
  | .ldxAbs addr => .mem (.abs addr)
  | .bcs d => .rel d
  | .ldaIzy z => .mem (.izy z)
  | .ldyZpx z => .mem (.zpx z)
  | .ldaZpx z => .mem (.zpx z)
  | .ldxZpy z => .mem (.zpy z)
  | .clv => .imp
  | .ldaAbsy addr => .mem (.absy addr)
  | .tsx => .imp
  | .ldyAbsx addr => .mem (.absx addr)
  | .ldaAbsx addr => .mem (.absx addr)
  | .ldxAbsy addr => .mem (.absy addr)
  | .cpyImm v => .imm v
  | .cmpIzx z => .mem (.izx z)
  | .cpyZp z => .mem (.zp z)
  | .cmpZp z => .mem (.zp z)
  | .decZp z => .mem (.zp z)
  | .iny => .imp
  | .cmpImm v => .imm v
  | .dex => .imp
  | .cpyAbs addr => .mem (.abs addr)
  | .cmpAbs addr => .mem (.abs addr)
  | .decAbs addr => .mem (.abs addr)
  | .bne d => .rel d
  | .cmpIzy z => .mem (.izy z)
  | .cmpZpx z => .mem (.zpx z)
  | .decZpx z => .mem (.zpx z)
  | .cld => .imp
  | .cmpAbsy addr => .mem (.absy addr)
  | .cmpAbsx addr => .mem (.absx addr)
  | .decAbsx addr => .mem (.absx addr)
  | .cpxImm v => .imm v
  | .sbcIzx z => .mem (.izx z)
  | .cpxZp z => .mem (.zp z)
  | .sbcZp z => .mem (.zp z)
  | .incZp z => .mem (.zp z)
  | .inx => .imp
  | .sbcImm v => .imm v
  | .nop => .imp
  | .cpxAbs addr => .mem (.abs addr)
  | .sbcAbs addr => .mem (.abs addr)
  | .incAbs addr => .mem (.abs addr)
  | .beq d => .rel d
  | .sbcIzy z => .mem (.izy z)
  | .sbcZpx z => .mem (.zpx z)
  | .incZpx z => .mem (.zpx z)
  | .sed => .imp
  | .sbcAbsy addr => .mem (.absy addr)
  | .sbcAbsx addr => .mem (.absx addr)
  | .incAbsx addr => .mem (.absx addr)

/-- The addressing mode of an instruction's row. -/
def Instr.mode (i : Instr) : Mode := i.operand.mode

end Sys2Proof
end

