-- ==== Sys2Proof/WellFormed.lean ====
section
/-! DEFINITION. Which (mnemonic, addressing mode) pairs exist, from the "Encoding" line of each instruction's rule in
the files 40 to 49, and the check of a form and of an instruction. The constructors of `Instr` take only values their
encodings admit, so an `Instr` can be ill-formed in its form only; `Form.wf` is the check an assembler's line meets. -/

namespace Sys2Proof

/-- The addressing modes the spec gives each mnemonic (R101 to R163). -/
def Mnemonic.modes : Mnemonic → List Mode
  | .adc => [.izx, .zp, .imm, .abs, .izy, .zpx, .absy, .absx]  -- R109
  | .and => [.izx, .zp, .imm, .abs, .izy, .zpx, .absy, .absx]  -- R112
  | .asl => [.zp, .acc, .abs, .zpx, .absx]  -- R117
  | .bcc => [.rel]  -- R133
  | .bcs => [.rel]  -- R134
  | .beq => [.rel]  -- R135
  | .bit => [.zp, .abs]  -- R115
  | .bmi => [.rel]  -- R136
  | .bne => [.rel]  -- R137
  | .bpl => [.rel]  -- R138
  | .brk => [.imp]  -- R162
  | .bvc => [.rel]  -- R139
  | .bvs => [.rel]  -- R140
  | .clc => [.imp]  -- R149
  | .cld => [.imp]  -- R153
  | .cli => [.imp]  -- R151
  | .clv => [.imp]  -- R155
  | .cmp => [.izx, .zp, .imm, .abs, .izy, .zpx, .absy, .absx]  -- R122
  | .cpx => [.imm, .zp, .abs]  -- R123
  | .cpy => [.imm, .zp, .abs]  -- R124
  | .dec => [.zp, .abs, .zpx, .absx]  -- R127
  | .dex => [.imp]  -- R130
  | .dey => [.imp]  -- R131
  | .eor => [.izx, .zp, .imm, .abs, .izy, .zpx, .absy, .absx]  -- R114
  | .inc => [.zp, .abs, .zpx, .absx]  -- R126
  | .inx => [.imp]  -- R128
  | .iny => [.imp]  -- R129
  | .jmp => [.abs, .ind]  -- R141
  | .jsr => [.abs]  -- R142
  | .lda => [.izx, .zp, .imm, .abs, .izy, .zpx, .absy, .absx]  -- R101
  | .ldx => [.imm, .zp, .abs, .zpy, .absy]  -- R102
  | .ldy => [.imm, .zp, .abs, .zpx, .absx]  -- R103
  | .lsr => [.zp, .acc, .abs, .zpx, .absx]  -- R118
  | .nop => [.imp]  -- R163
  | .ora => [.izx, .zp, .imm, .abs, .izy, .zpx, .absy, .absx]  -- R113
  | .pha => [.imp]  -- R145
  | .php => [.imp]  -- R146
  | .pla => [.imp]  -- R147
  | .plp => [.imp]  -- R148
  | .rol => [.zp, .acc, .abs, .zpx, .absx]  -- R119
  | .ror => [.zp, .acc, .abs, .zpx, .absx]  -- R120
  | .rti => [.imp]  -- R144
  | .rts => [.imp]  -- R143
  | .sbc => [.izx, .zp, .imm, .abs, .izy, .zpx, .absy, .absx]  -- R110
  | .sec => [.imp]  -- R150
  | .sed => [.imp]  -- R154
  | .sei => [.imp]  -- R152
  | .sta => [.izx, .zp, .abs, .izy, .zpx, .absy, .absx]  -- R104
  | .stx => [.zp, .abs, .zpy]  -- R105
  | .sty => [.zp, .abs, .zpx]  -- R106
  | .tax => [.imp]  -- R156
  | .tay => [.imp]  -- R157
  | .tsx => [.imp]  -- R160
  | .txa => [.imp]  -- R158
  | .txs => [.imp]  -- R161
  | .tya => [.imp]  -- R159

/-- A mnemonic with an operand, as an assembler's line names them; it need not be an instruction. -/
structure Form where
  mnemonic : Mnemonic
  operand  : Operand
  deriving DecidableEq, Repr

/-- A form is well formed when the spec gives its mnemonic that mode. -/
def Form.wf (f : Form) : Bool := f.mnemonic.modes.contains f.operand.mode

/-- The form an instruction stands for. -/
def Instr.form (i : Instr) : Form := ⟨i.mnemonic, i.operand⟩

/-- An instruction is well formed when its form is. -/
def Instr.wf (i : Instr) : Bool := i.form.wf

end Sys2Proof
end

