-- ==== Sys2Proof/Decode.lean ====
section
/-! DEFINITION. The decoder (`6502_decoder`, 00_scope.md R5, 30_encoding.md R72 to R78): the opcode table, the decoding
of a byte list, total and rejecting by name, and the encoder written from the same table. -/

namespace Sys2Proof

/-- The 16-bit value `(hi, lo)`: `hi * 256 + lo` (00_scope.md R16). -/
def wordOf (hi lo : Byte) : Addr := hi ++ lo

/-- The low byte of a 16-bit value. -/
def loByte (w : Addr) : Byte := w.extractLsb' 0 8

/-- The high byte of a 16-bit value. -/
def hiByte (w : Addr) : Byte := w.extractLsb' 8 8

/-- The length an addressing mode gives its instruction (30_encoding.md R73). -/
def Mode.length : Mode → Nat
  | .imp | .acc => 1
  | .imm | .zp | .zpx | .zpy | .izx | .izy | .rel => 2
  | .abs | .absx | .absy | .ind => 3

/-- The class of an instruction (30_encoding.md R96). -/
inductive InstrClass where
  | read | write | rmw | rmwAcc | jump | branch | implied
  deriving DecidableEq, Repr

/-- A row of the opcode map: what `Decode` answers for a legal opcode byte (30_encoding.md R75), with the class and
whether a page crossing costs a cycle (70_reset_and_hazards.md R197). -/
structure OpcodeEntry where
  opcode     : Byte
  mnemonic   : Mnemonic
  mode       : Mode
  cls        : InstrClass
  baseCycles : Nat
  pagePenalty : Bool := false
  deriving DecidableEq, Repr

/-- The length of a row's instruction: its mode's (30_encoding.md R74). -/
def OpcodeEntry.length (e : OpcodeEntry) : Nat := e.mode.length

/-- Opcodes $00 to $0F (30_encoding.md R76). -/
def opcodeRow0 : List OpcodeEntry :=
  [⟨0x00, .brk, .imp, .implied, 7, false⟩,
   ⟨0x01, .ora, .izx, .read, 6, false⟩,
   ⟨0x05, .ora, .zp, .read, 3, false⟩,
   ⟨0x06, .asl, .zp, .rmw, 5, false⟩,
   ⟨0x08, .php, .imp, .implied, 3, false⟩,
   ⟨0x09, .ora, .imm, .read, 2, false⟩,
   ⟨0x0A, .asl, .acc, .rmwAcc, 2, false⟩,
   ⟨0x0D, .ora, .abs, .read, 4, false⟩,
   ⟨0x0E, .asl, .abs, .rmw, 6, false⟩]

/-- Opcodes $10 to $1F (30_encoding.md R76). -/
def opcodeRow1 : List OpcodeEntry :=
  [⟨0x10, .bpl, .rel, .branch, 2, false⟩,
   ⟨0x11, .ora, .izy, .read, 5, true⟩,
   ⟨0x15, .ora, .zpx, .read, 4, false⟩,
   ⟨0x16, .asl, .zpx, .rmw, 6, false⟩,
   ⟨0x18, .clc, .imp, .implied, 2, false⟩,
   ⟨0x19, .ora, .absy, .read, 4, true⟩,
   ⟨0x1D, .ora, .absx, .read, 4, true⟩,
   ⟨0x1E, .asl, .absx, .rmw, 7, false⟩]

/-- Opcodes $20 to $2F (30_encoding.md R76). -/
def opcodeRow2 : List OpcodeEntry :=
  [⟨0x20, .jsr, .abs, .jump, 6, false⟩,
   ⟨0x21, .and, .izx, .read, 6, false⟩,
   ⟨0x24, .bit, .zp, .read, 3, false⟩,
   ⟨0x25, .and, .zp, .read, 3, false⟩,
   ⟨0x26, .rol, .zp, .rmw, 5, false⟩,
   ⟨0x28, .plp, .imp, .implied, 4, false⟩,
   ⟨0x29, .and, .imm, .read, 2, false⟩,
   ⟨0x2A, .rol, .acc, .rmwAcc, 2, false⟩,
   ⟨0x2C, .bit, .abs, .read, 4, false⟩,
   ⟨0x2D, .and, .abs, .read, 4, false⟩,
   ⟨0x2E, .rol, .abs, .rmw, 6, false⟩]

/-- Opcodes $30 to $3F (30_encoding.md R76). -/
def opcodeRow3 : List OpcodeEntry :=
  [⟨0x30, .bmi, .rel, .branch, 2, false⟩,
   ⟨0x31, .and, .izy, .read, 5, true⟩,
   ⟨0x35, .and, .zpx, .read, 4, false⟩,
   ⟨0x36, .rol, .zpx, .rmw, 6, false⟩,
   ⟨0x38, .sec, .imp, .implied, 2, false⟩,
   ⟨0x39, .and, .absy, .read, 4, true⟩,
   ⟨0x3D, .and, .absx, .read, 4, true⟩,
   ⟨0x3E, .rol, .absx, .rmw, 7, false⟩]

/-- Opcodes $40 to $4F (30_encoding.md R76). -/
def opcodeRow4 : List OpcodeEntry :=
  [⟨0x40, .rti, .imp, .implied, 6, false⟩,
   ⟨0x41, .eor, .izx, .read, 6, false⟩,
   ⟨0x45, .eor, .zp, .read, 3, false⟩,
   ⟨0x46, .lsr, .zp, .rmw, 5, false⟩,
   ⟨0x48, .pha, .imp, .implied, 3, false⟩,
   ⟨0x49, .eor, .imm, .read, 2, false⟩,
   ⟨0x4A, .lsr, .acc, .rmwAcc, 2, false⟩,
   ⟨0x4C, .jmp, .abs, .jump, 3, false⟩,
   ⟨0x4D, .eor, .abs, .read, 4, false⟩,
   ⟨0x4E, .lsr, .abs, .rmw, 6, false⟩]

/-- Opcodes $50 to $5F (30_encoding.md R76). -/
def opcodeRow5 : List OpcodeEntry :=
  [⟨0x50, .bvc, .rel, .branch, 2, false⟩,
   ⟨0x51, .eor, .izy, .read, 5, true⟩,
   ⟨0x55, .eor, .zpx, .read, 4, false⟩,
   ⟨0x56, .lsr, .zpx, .rmw, 6, false⟩,
   ⟨0x58, .cli, .imp, .implied, 2, false⟩,
   ⟨0x59, .eor, .absy, .read, 4, true⟩,
   ⟨0x5D, .eor, .absx, .read, 4, true⟩,
   ⟨0x5E, .lsr, .absx, .rmw, 7, false⟩]

/-- Opcodes $60 to $6F (30_encoding.md R76). -/
def opcodeRow6 : List OpcodeEntry :=
  [⟨0x60, .rts, .imp, .implied, 6, false⟩,
   ⟨0x61, .adc, .izx, .read, 6, false⟩,
   ⟨0x65, .adc, .zp, .read, 3, false⟩,
   ⟨0x66, .ror, .zp, .rmw, 5, false⟩,
   ⟨0x68, .pla, .imp, .implied, 4, false⟩,
   ⟨0x69, .adc, .imm, .read, 2, false⟩,
   ⟨0x6A, .ror, .acc, .rmwAcc, 2, false⟩,
   ⟨0x6C, .jmp, .ind, .jump, 5, false⟩,
   ⟨0x6D, .adc, .abs, .read, 4, false⟩,
   ⟨0x6E, .ror, .abs, .rmw, 6, false⟩]

/-- Opcodes $70 to $7F (30_encoding.md R76). -/
def opcodeRow7 : List OpcodeEntry :=
  [⟨0x70, .bvs, .rel, .branch, 2, false⟩,
   ⟨0x71, .adc, .izy, .read, 5, true⟩,
   ⟨0x75, .adc, .zpx, .read, 4, false⟩,
   ⟨0x76, .ror, .zpx, .rmw, 6, false⟩,
   ⟨0x78, .sei, .imp, .implied, 2, false⟩,
   ⟨0x79, .adc, .absy, .read, 4, true⟩,
   ⟨0x7D, .adc, .absx, .read, 4, true⟩,
   ⟨0x7E, .ror, .absx, .rmw, 7, false⟩]

/-- Opcodes $80 to $8F (30_encoding.md R76). -/
def opcodeRow8 : List OpcodeEntry :=
  [⟨0x81, .sta, .izx, .write, 6, false⟩,
   ⟨0x84, .sty, .zp, .write, 3, false⟩,
   ⟨0x85, .sta, .zp, .write, 3, false⟩,
   ⟨0x86, .stx, .zp, .write, 3, false⟩,
   ⟨0x88, .dey, .imp, .implied, 2, false⟩,
   ⟨0x8A, .txa, .imp, .implied, 2, false⟩,
   ⟨0x8C, .sty, .abs, .write, 4, false⟩,
   ⟨0x8D, .sta, .abs, .write, 4, false⟩,
   ⟨0x8E, .stx, .abs, .write, 4, false⟩]

/-- Opcodes $90 to $9F (30_encoding.md R76). -/
def opcodeRow9 : List OpcodeEntry :=
  [⟨0x90, .bcc, .rel, .branch, 2, false⟩,
   ⟨0x91, .sta, .izy, .write, 6, false⟩,
   ⟨0x94, .sty, .zpx, .write, 4, false⟩,
   ⟨0x95, .sta, .zpx, .write, 4, false⟩,
   ⟨0x96, .stx, .zpy, .write, 4, false⟩,
   ⟨0x98, .tya, .imp, .implied, 2, false⟩,
   ⟨0x99, .sta, .absy, .write, 5, false⟩,
   ⟨0x9A, .txs, .imp, .implied, 2, false⟩,
   ⟨0x9D, .sta, .absx, .write, 5, false⟩]

/-- Opcodes $A0 to $AF (30_encoding.md R76). -/
def opcodeRowA : List OpcodeEntry :=
  [⟨0xA0, .ldy, .imm, .read, 2, false⟩,
   ⟨0xA1, .lda, .izx, .read, 6, false⟩,
   ⟨0xA2, .ldx, .imm, .read, 2, false⟩,
   ⟨0xA4, .ldy, .zp, .read, 3, false⟩,
   ⟨0xA5, .lda, .zp, .read, 3, false⟩,
   ⟨0xA6, .ldx, .zp, .read, 3, false⟩,
   ⟨0xA8, .tay, .imp, .implied, 2, false⟩,
   ⟨0xA9, .lda, .imm, .read, 2, false⟩,
   ⟨0xAA, .tax, .imp, .implied, 2, false⟩,
   ⟨0xAC, .ldy, .abs, .read, 4, false⟩,
   ⟨0xAD, .lda, .abs, .read, 4, false⟩,
   ⟨0xAE, .ldx, .abs, .read, 4, false⟩]

/-- Opcodes $B0 to $BF (30_encoding.md R76). -/
def opcodeRowB : List OpcodeEntry :=
  [⟨0xB0, .bcs, .rel, .branch, 2, false⟩,
   ⟨0xB1, .lda, .izy, .read, 5, true⟩,
   ⟨0xB4, .ldy, .zpx, .read, 4, false⟩,
   ⟨0xB5, .lda, .zpx, .read, 4, false⟩,
   ⟨0xB6, .ldx, .zpy, .read, 4, false⟩,
   ⟨0xB8, .clv, .imp, .implied, 2, false⟩,
   ⟨0xB9, .lda, .absy, .read, 4, true⟩,
   ⟨0xBA, .tsx, .imp, .implied, 2, false⟩,
   ⟨0xBC, .ldy, .absx, .read, 4, true⟩,
   ⟨0xBD, .lda, .absx, .read, 4, true⟩,
   ⟨0xBE, .ldx, .absy, .read, 4, true⟩]

/-- Opcodes $C0 to $CF (30_encoding.md R76). -/
def opcodeRowC : List OpcodeEntry :=
  [⟨0xC0, .cpy, .imm, .read, 2, false⟩,
   ⟨0xC1, .cmp, .izx, .read, 6, false⟩,
   ⟨0xC4, .cpy, .zp, .read, 3, false⟩,
   ⟨0xC5, .cmp, .zp, .read, 3, false⟩,
   ⟨0xC6, .dec, .zp, .rmw, 5, false⟩,
   ⟨0xC8, .iny, .imp, .implied, 2, false⟩,
   ⟨0xC9, .cmp, .imm, .read, 2, false⟩,
   ⟨0xCA, .dex, .imp, .implied, 2, false⟩,
   ⟨0xCC, .cpy, .abs, .read, 4, false⟩,
   ⟨0xCD, .cmp, .abs, .read, 4, false⟩,
   ⟨0xCE, .dec, .abs, .rmw, 6, false⟩]

/-- Opcodes $D0 to $DF (30_encoding.md R76). -/
def opcodeRowD : List OpcodeEntry :=
  [⟨0xD0, .bne, .rel, .branch, 2, false⟩,
   ⟨0xD1, .cmp, .izy, .read, 5, true⟩,
   ⟨0xD5, .cmp, .zpx, .read, 4, false⟩,
   ⟨0xD6, .dec, .zpx, .rmw, 6, false⟩,
   ⟨0xD8, .cld, .imp, .implied, 2, false⟩,
   ⟨0xD9, .cmp, .absy, .read, 4, true⟩,
   ⟨0xDD, .cmp, .absx, .read, 4, true⟩,
   ⟨0xDE, .dec, .absx, .rmw, 7, false⟩]

/-- Opcodes $E0 to $EF (30_encoding.md R76). -/
def opcodeRowE : List OpcodeEntry :=
  [⟨0xE0, .cpx, .imm, .read, 2, false⟩,
   ⟨0xE1, .sbc, .izx, .read, 6, false⟩,
   ⟨0xE4, .cpx, .zp, .read, 3, false⟩,
   ⟨0xE5, .sbc, .zp, .read, 3, false⟩,
   ⟨0xE6, .inc, .zp, .rmw, 5, false⟩,
   ⟨0xE8, .inx, .imp, .implied, 2, false⟩,
   ⟨0xE9, .sbc, .imm, .read, 2, false⟩,
   ⟨0xEA, .nop, .imp, .implied, 2, false⟩,
   ⟨0xEC, .cpx, .abs, .read, 4, false⟩,
   ⟨0xED, .sbc, .abs, .read, 4, false⟩,
   ⟨0xEE, .inc, .abs, .rmw, 6, false⟩]

/-- Opcodes $F0 to $FF (30_encoding.md R76). -/
def opcodeRowF : List OpcodeEntry :=
  [⟨0xF0, .beq, .rel, .branch, 2, false⟩,
   ⟨0xF1, .sbc, .izy, .read, 5, true⟩,
   ⟨0xF5, .sbc, .zpx, .read, 4, false⟩,
   ⟨0xF6, .inc, .zpx, .rmw, 6, false⟩,
   ⟨0xF8, .sed, .imp, .implied, 2, false⟩,
   ⟨0xF9, .sbc, .absy, .read, 4, true⟩,
   ⟨0xFD, .sbc, .absx, .read, 4, true⟩,
   ⟨0xFE, .inc, .absx, .rmw, 7, false⟩]

/-- The opcode map: the 151 legal opcodes of spec/opcode_table.json (30_encoding.md R76, R78). -/
def opcodeTable : List OpcodeEntry :=
  opcodeRow0 ++ opcodeRow1 ++ opcodeRow2 ++ opcodeRow3 ++ opcodeRow4 ++ opcodeRow5 ++ opcodeRow6 ++ opcodeRow7 ++
  opcodeRow8 ++ opcodeRow9 ++ opcodeRowA ++ opcodeRowB ++ opcodeRowC ++ opcodeRowD ++ opcodeRowE ++ opcodeRowF

/-- `Decode(op)` (30_encoding.md R75): the row of a legal opcode byte, `none` for an illegal one (R77). -/
def decodeOpcode (op : Byte) : Option OpcodeEntry := opcodeTable.find? (fun e => e.opcode == op)

/-- The instruction a form stands for; none when the spec does not give the mnemonic that mode. -/
def assemble : Mnemonic → Operand → Option Instr
  | .adc, o =>
    match o with
    | .mem (.izx z) => some (.adcIzx z)
    | .mem (.zp z) => some (.adcZp z)
    | .imm v => some (.adcImm v)
    | .mem (.abs addr) => some (.adcAbs addr)
    | .mem (.izy z) => some (.adcIzy z)
    | .mem (.zpx z) => some (.adcZpx z)
    | .mem (.absy addr) => some (.adcAbsy addr)
    | .mem (.absx addr) => some (.adcAbsx addr)
    | _ => none
  | .and, o =>
    match o with
    | .mem (.izx z) => some (.andIzx z)
    | .mem (.zp z) => some (.andZp z)
    | .imm v => some (.andImm v)
    | .mem (.abs addr) => some (.andAbs addr)
    | .mem (.izy z) => some (.andIzy z)
    | .mem (.zpx z) => some (.andZpx z)
    | .mem (.absy addr) => some (.andAbsy addr)
    | .mem (.absx addr) => some (.andAbsx addr)
    | _ => none
  | .asl, o =>
    match o with
    | .mem (.zp z) => some (.aslZp z)
    | .acc => some .aslAcc
    | .mem (.abs addr) => some (.aslAbs addr)
    | .mem (.zpx z) => some (.aslZpx z)
    | .mem (.absx addr) => some (.aslAbsx addr)
    | _ => none
  | .bcc, o =>
    match o with
    | .rel d => some (.bcc d)
    | _ => none
  | .bcs, o =>
    match o with
    | .rel d => some (.bcs d)
    | _ => none
  | .beq, o =>
    match o with
    | .rel d => some (.beq d)
    | _ => none
  | .bit, o =>
    match o with
    | .mem (.zp z) => some (.bitZp z)
    | .mem (.abs addr) => some (.bitAbs addr)
    | _ => none
  | .bmi, o =>
    match o with
    | .rel d => some (.bmi d)
    | _ => none
  | .bne, o =>
    match o with
    | .rel d => some (.bne d)
    | _ => none
  | .bpl, o =>
    match o with
    | .rel d => some (.bpl d)
    | _ => none
  | .brk, o =>
    match o with
    | .imp => some .brk
    | _ => none
  | .bvc, o =>
    match o with
    | .rel d => some (.bvc d)
    | _ => none
  | .bvs, o =>
    match o with
    | .rel d => some (.bvs d)
    | _ => none
  | .clc, o =>
    match o with
    | .imp => some .clc
    | _ => none
  | .cld, o =>
    match o with
    | .imp => some .cld
    | _ => none
  | .cli, o =>
    match o with
    | .imp => some .cli
    | _ => none
  | .clv, o =>
    match o with
    | .imp => some .clv
    | _ => none
  | .cmp, o =>
    match o with
    | .mem (.izx z) => some (.cmpIzx z)
    | .mem (.zp z) => some (.cmpZp z)
    | .imm v => some (.cmpImm v)
    | .mem (.abs addr) => some (.cmpAbs addr)
    | .mem (.izy z) => some (.cmpIzy z)
    | .mem (.zpx z) => some (.cmpZpx z)
    | .mem (.absy addr) => some (.cmpAbsy addr)
    | .mem (.absx addr) => some (.cmpAbsx addr)
    | _ => none
  | .cpx, o =>
    match o with
    | .imm v => some (.cpxImm v)
    | .mem (.zp z) => some (.cpxZp z)
    | .mem (.abs addr) => some (.cpxAbs addr)
    | _ => none
  | .cpy, o =>
    match o with
    | .imm v => some (.cpyImm v)
    | .mem (.zp z) => some (.cpyZp z)
    | .mem (.abs addr) => some (.cpyAbs addr)
    | _ => none
  | .dec, o =>
    match o with
    | .mem (.zp z) => some (.decZp z)
    | .mem (.abs addr) => some (.decAbs addr)
    | .mem (.zpx z) => some (.decZpx z)
    | .mem (.absx addr) => some (.decAbsx addr)
    | _ => none
  | .dex, o =>
    match o with
    | .imp => some .dex
    | _ => none
  | .dey, o =>
    match o with
    | .imp => some .dey
    | _ => none
  | .eor, o =>
    match o with
    | .mem (.izx z) => some (.eorIzx z)
    | .mem (.zp z) => some (.eorZp z)
    | .imm v => some (.eorImm v)
    | .mem (.abs addr) => some (.eorAbs addr)
    | .mem (.izy z) => some (.eorIzy z)
    | .mem (.zpx z) => some (.eorZpx z)
    | .mem (.absy addr) => some (.eorAbsy addr)
    | .mem (.absx addr) => some (.eorAbsx addr)
    | _ => none
  | .inc, o =>
    match o with
    | .mem (.zp z) => some (.incZp z)
    | .mem (.abs addr) => some (.incAbs addr)
    | .mem (.zpx z) => some (.incZpx z)
    | .mem (.absx addr) => some (.incAbsx addr)
    | _ => none
  | .inx, o =>
    match o with
    | .imp => some .inx
    | _ => none
  | .iny, o =>
    match o with
    | .imp => some .iny
    | _ => none
  | .jmp, o =>
    match o with
    | .mem (.abs addr) => some (.jmpAbs addr)
    | .ind ptr => some (.jmpInd ptr)
    | _ => none
  | .jsr, o =>
    match o with
    | .mem (.abs addr) => some (.jsr addr)
    | _ => none
  | .lda, o =>
    match o with
    | .mem (.izx z) => some (.ldaIzx z)
    | .mem (.zp z) => some (.ldaZp z)
    | .imm v => some (.ldaImm v)
    | .mem (.abs addr) => some (.ldaAbs addr)
    | .mem (.izy z) => some (.ldaIzy z)
    | .mem (.zpx z) => some (.ldaZpx z)
    | .mem (.absy addr) => some (.ldaAbsy addr)
    | .mem (.absx addr) => some (.ldaAbsx addr)
    | _ => none
  | .ldx, o =>
    match o with
    | .imm v => some (.ldxImm v)
    | .mem (.zp z) => some (.ldxZp z)
    | .mem (.abs addr) => some (.ldxAbs addr)
    | .mem (.zpy z) => some (.ldxZpy z)
    | .mem (.absy addr) => some (.ldxAbsy addr)
    | _ => none
  | .ldy, o =>
    match o with
    | .imm v => some (.ldyImm v)
    | .mem (.zp z) => some (.ldyZp z)
    | .mem (.abs addr) => some (.ldyAbs addr)
    | .mem (.zpx z) => some (.ldyZpx z)
    | .mem (.absx addr) => some (.ldyAbsx addr)
    | _ => none
  | .lsr, o =>
    match o with
    | .mem (.zp z) => some (.lsrZp z)
    | .acc => some .lsrAcc
    | .mem (.abs addr) => some (.lsrAbs addr)
    | .mem (.zpx z) => some (.lsrZpx z)
    | .mem (.absx addr) => some (.lsrAbsx addr)
    | _ => none
  | .nop, o =>
    match o with
    | .imp => some .nop
    | _ => none
  | .ora, o =>
    match o with
    | .mem (.izx z) => some (.oraIzx z)
    | .mem (.zp z) => some (.oraZp z)
    | .imm v => some (.oraImm v)
    | .mem (.abs addr) => some (.oraAbs addr)
    | .mem (.izy z) => some (.oraIzy z)
    | .mem (.zpx z) => some (.oraZpx z)
    | .mem (.absy addr) => some (.oraAbsy addr)
    | .mem (.absx addr) => some (.oraAbsx addr)
    | _ => none
  | .pha, o =>
    match o with
    | .imp => some .pha
    | _ => none
  | .php, o =>
    match o with
    | .imp => some .php
    | _ => none
  | .pla, o =>
    match o with
    | .imp => some .pla
    | _ => none
  | .plp, o =>
    match o with
    | .imp => some .plp
    | _ => none
  | .rol, o =>
    match o with
    | .mem (.zp z) => some (.rolZp z)
    | .acc => some .rolAcc
    | .mem (.abs addr) => some (.rolAbs addr)
    | .mem (.zpx z) => some (.rolZpx z)
    | .mem (.absx addr) => some (.rolAbsx addr)
    | _ => none
  | .ror, o =>
    match o with
    | .mem (.zp z) => some (.rorZp z)
    | .acc => some .rorAcc
    | .mem (.abs addr) => some (.rorAbs addr)
    | .mem (.zpx z) => some (.rorZpx z)
    | .mem (.absx addr) => some (.rorAbsx addr)
    | _ => none
  | .rti, o =>
    match o with
    | .imp => some .rti
    | _ => none
  | .rts, o =>
    match o with
    | .imp => some .rts
    | _ => none
  | .sbc, o =>
    match o with
    | .mem (.izx z) => some (.sbcIzx z)
    | .mem (.zp z) => some (.sbcZp z)
    | .imm v => some (.sbcImm v)
    | .mem (.abs addr) => some (.sbcAbs addr)
    | .mem (.izy z) => some (.sbcIzy z)
    | .mem (.zpx z) => some (.sbcZpx z)
    | .mem (.absy addr) => some (.sbcAbsy addr)
    | .mem (.absx addr) => some (.sbcAbsx addr)
    | _ => none
  | .sec, o =>
    match o with
    | .imp => some .sec
    | _ => none
  | .sed, o =>
    match o with
    | .imp => some .sed
    | _ => none
  | .sei, o =>
    match o with
    | .imp => some .sei
    | _ => none
  | .sta, o =>
    match o with
    | .mem (.izx z) => some (.staIzx z)
    | .mem (.zp z) => some (.staZp z)
    | .mem (.abs addr) => some (.staAbs addr)
    | .mem (.izy z) => some (.staIzy z)
    | .mem (.zpx z) => some (.staZpx z)
    | .mem (.absy addr) => some (.staAbsy addr)
    | .mem (.absx addr) => some (.staAbsx addr)
    | _ => none
  | .stx, o =>
    match o with
    | .mem (.zp z) => some (.stxZp z)
    | .mem (.abs addr) => some (.stxAbs addr)
    | .mem (.zpy z) => some (.stxZpy z)
    | _ => none
  | .sty, o =>
    match o with
    | .mem (.zp z) => some (.styZp z)
    | .mem (.abs addr) => some (.styAbs addr)
    | .mem (.zpx z) => some (.styZpx z)
    | _ => none
  | .tax, o =>
    match o with
    | .imp => some .tax
    | _ => none
  | .tay, o =>
    match o with
    | .imp => some .tay
    | _ => none
  | .tsx, o =>
    match o with
    | .imp => some .tsx
    | _ => none
  | .txa, o =>
    match o with
    | .imp => some .txa
    | _ => none
  | .txs, o =>
    match o with
    | .imp => some .txs
    | _ => none
  | .tya, o =>
    match o with
    | .imp => some .tya
    | _ => none

/-- The operand of a mode from the operand bytes `b1` and `b2`, little-endian (30_encoding.md R72). -/
def Mode.operand (m : Mode) (b1 b2 : Byte) : Operand :=
  match m with
  | .imp => .imp
  | .acc => .acc
  | .imm => .imm b1
  | .zp => .mem (.zp b1)
  | .zpx => .mem (.zpx b1)
  | .zpy => .mem (.zpy b1)
  | .abs => .mem (.abs (wordOf b2 b1))
  | .absx => .mem (.absx (wordOf b2 b1))
  | .absy => .mem (.absy (wordOf b2 b1))
  | .ind => .ind (wordOf b2 b1)
  | .izx => .mem (.izx b1)
  | .izy => .mem (.izy b1)
  | .rel => .rel b1

/-- Why a byte list decodes to no instruction: an illegal opcode byte (30_encoding.md R77); fewer bytes than the opcode's
length (no fetch gives such a list, notes/assumptions/15.md); a row whose form has no instruction (the table has none). -/
inductive DecodeReject where
  | illegalOpcode (byte : Byte)
  | truncated
  | noSuchForm
  deriving DecidableEq, Repr

/-- The operand bytes of a mode taken from the front of a list, with what is left. -/
def takeOperand (m : Mode) (bytes : List Byte) : Option (Operand × List Byte) :=
  match m.length, bytes with
  | 1, rest => some (m.operand 0 0, rest)
  | 2, b1 :: rest => some (m.operand b1 0, rest)
  | 3, b1 :: b2 :: rest => some (m.operand b1 b2, rest)
  | _, _ => none

/-- Decode the instruction at the front of a byte list, with the bytes that follow it (30_encoding.md R72 to R77). -/
def decode (bytes : List Byte) : Except DecodeReject (Instr × List Byte) :=
  match bytes with
  | [] => .error .truncated
  | op :: rest =>
    match decodeOpcode op with
    | none => .error (.illegalOpcode op)
    | some e =>
      match takeOperand e.mode rest with
      | none => .error .truncated
      | some (o, rest') =>
        match assemble e.mnemonic o with
        | none => .error .noSuchForm
        | some i => .ok (i, rest')

/-- The row of the opcode map that has a mnemonic and a mode. -/
def entryOf (m : Mnemonic) (md : Mode) : Option OpcodeEntry :=
  opcodeTable.find? (fun e => e.mnemonic == m && e.mode == md)

/-- The opcode byte of an instruction, from the same table. Every instruction has a row
(`Sys2Proof.Laws.TableRow`), so the $00 is never taken for want of one. -/
def Instr.opcode (i : Instr) : Byte :=
  match entryOf i.mnemonic i.mode with
  | some e => e.opcode
  | none => 0x00

/-- The operand bytes, in the order they follow the opcode (30_encoding.md R72). -/
def Operand.bytes : Operand → List Byte
  | .imp | .acc => []
  | .imm v => [v]
  | .mem (.zp z) | .mem (.zpx z) | .mem (.zpy z) | .mem (.izx z) | .mem (.izy z) => [z]
  | .mem (.abs a) | .mem (.absx a) | .mem (.absy a) => [loByte a, hiByte a]
  | .ind p => [loByte p, hiByte p]
  | .rel d => [d]

/-- The bytes of an instruction (30_encoding.md R72). -/
def encode (i : Instr) : List Byte := i.opcode :: i.operand.bytes

/-- The instruction a table word stands for: byte `k` of the instruction is bits `8k` to `8k+7` of `w`, and every bit at
or above `nbits` is 0. -/
def decodeTableWord (nbits w : Nat) : Option Instr :=
  let v := w % 2 ^ nbits
  match decode [BitVec.ofNat 8 v, BitVec.ofNat 8 (v / 256), BitVec.ofNat 8 (v / 65536)] with
  | .ok (i, _) => some i
  | .error _ => none

end Sys2Proof
end

