-- ==== Sys2Proof/Machine/Flags.lean ====
section
/-! DEFINITION. The status byte's flags (`6502_status_flags`, 10_state.md R25 to R35) and the ALU (`6502_alu`,
00_scope.md R7): pure functions on bytes. -/

namespace Sys2Proof.Machine

/-- The eight flags of `P` (10_state.md R25). -/
inductive Flag where
  | n | v | u | b | d | i | z | c
  deriving DecidableEq, Repr

/-- The mask of a flag (10_state.md R25). -/
def Flag.mask : Flag → Byte
  | .n => 0x80
  | .v => 0x40
  | .u => 0x20
  | .b => 0x10
  | .d => 0x08
  | .i => 0x04
  | .z => 0x02
  | .c => 0x01

/-- `ReadP()`: bit 5 always reads as 1 (10_state.md R26, R34). -/
def readStatus (p : Byte) : Byte := p ||| Flag.u.mask

/-- `WriteP(v)`: what a write of the whole of `P` stores (10_state.md R26, R34). -/
def writeStatus (v : Byte) : Byte := v ||| Flag.u.mask

/-- `getFlag(f)` (10_state.md R34). -/
def getFlag (p : Byte) (f : Flag) : Bool := readStatus p &&& f.mask != 0

/-- `setFlag(f, cond)` (10_state.md R34); it has no effect on U. -/
def setFlag (p : Byte) (f : Flag) (cond : Bool) : Byte :=
  match f with
  | .u => p
  | _ => if cond then p ||| f.mask else p &&& ~~~f.mask

/-- `clearFlag(f)` (10_state.md R34). -/
def clearFlag (p : Byte) (f : Flag) : Byte := setFlag p f false

/-- `setNZ(r)` (10_state.md R35). -/
def setNZ (p r : Byte) : Byte := setFlag (setFlag p .z (r == 0)) .n r.msb

/-- What the adder answers: the result, the carry out and the overflow. -/
structure AddResult where
  r : Byte
  c : Bool
  v : Bool
  deriving DecidableEq, Repr

/-- `add8(a, b, cin)` (41_arithmetic.md R108). -/
def add8 (a b : Byte) (cin : Bool) : AddResult :=
  let s := a.toNat + b.toNat + cin.toNat
  let r := BitVec.ofNat 8 s
  { r := r
    c := decide (s > 255)
    v := (~~~(a ^^^ b)) &&& (a ^^^ r) &&& 0x80 != 0 }

/-- `and8` (42_logical.md R111). -/
def and8 (a b : Byte) : Byte := a &&& b

/-- `or8` (42_logical.md R111). -/
def or8 (a b : Byte) : Byte := a ||| b

/-- `xor8` (42_logical.md R111). -/
def xor8 (a b : Byte) : Byte := a ^^^ b

/-- `shl8(v)`: the result and the bit shifted out (43_shift_rotate.md R116). -/
def shl8 (v : Byte) : Byte × Bool := (v <<< 1, v.getLsbD 7)

/-- `shr8(v)` (43_shift_rotate.md R116). -/
def shr8 (v : Byte) : Byte × Bool := (v >>> 1, v.getLsbD 0)

/-- `rol8(v, cin)` (43_shift_rotate.md R116). -/
def rol8 (v : Byte) (cin : Bool) : Byte × Bool := ((v <<< 1) ||| (if cin then 0x01 else 0x00), v.getLsbD 7)

/-- `ror8(v, cin)` (43_shift_rotate.md R116). -/
def ror8 (v : Byte) (cin : Bool) : Byte × Bool := ((if cin then 0x80 else 0x00) ||| (v >>> 1), v.getLsbD 0)

/-- `inc8(v)` (45_inc_dec.md R125). -/
def inc8 (v : Byte) : Byte := v + 1

/-- `dec8(v)` (45_inc_dec.md R125). -/
def dec8 (v : Byte) : Byte := v - 1

/-- `cmp8(r, m)`: the status byte after comparing `r` with `m` (44_compare.md R121). -/
def cmp8 (p r m : Byte) : Byte :=
  setFlag (setFlag (setFlag p .c (decide (r.toNat ≥ m.toNat))) .z (r == m)) .n (r - m).msb

end Sys2Proof.Machine
end

