-- ==== Sys2Proof/Config.lean ====
section
/-! DEFINITION. The configuration of the block (10_state.md R19, 00_scope.md R15) and the free values:
the picture-unit window (20_memory.md R47) and the host's inputs (60_exceptions.md R169). -/

namespace Sys2Proof

/-- `PRG_BANKS ∈ {1, 2}`: how many 16KB banks of program ROM the cartridge holds (20_memory.md R50). -/
inductive PrgBanks where
  | one
  | two
  deriving DecidableEq, Repr

/-- `mapper_id`: only mapper 0 exists (20_memory.md R50, R53). -/
inductive Mapper where
  | mapper0
  deriving DecidableEq, Repr

/-- `RESET_PC_MODE`: where reset takes PC from (70_reset_and_hazards.md R186). -/
inductive ResetPcMode where
  | vector
  | fixed8000
  deriving DecidableEq, Repr

/-- `MAPPER0_WRITE`: what a write to the cartridge region does (20_memory.md R52). -/
inductive Mapper0Write where
  | writeThrough
  | ignore
  deriving DecidableEq, Repr

/-- The spec's `Cfg` (10_state.md R19), fixed for the run. The defaults are those of 00_scope.md R15. The spec
gives `PRG_BANKS` no default (the cartridge header does); `one` is a DESIGN CHOICE, notes/assumptions/2.md. -/
structure Cfg where
  prgBanks      : PrgBanks     := .one
  mapper        : Mapper       := .mapper0
  resetPcMode   : ResetPcMode  := .vector
  jmpIndPageWrap : Bool        := true
  mapper0Write  : Mapper0Write := .writeThrough
  deriving DecidableEq, Repr

/-- FREE VALUE. The spec's `PpuRead()` (20_memory.md R47): the byte the `n`-th draw from $2000–$3FFF gives. It has
no body, so nothing can be proved of its values: notes/assumptions/4.md. -/
opaque Config.ppuRead : Nat → Byte

/-- FREE VALUE. Whether the host presents an NMI edge at the `n`-th step of a sequence of which nothing is known
(60_exceptions.md R169). It has no body: notes/assumptions/6.md. -/
opaque Config.nmiEdge : Nat → Bool

/-- FREE VALUE. The level of the IRQ line at the `n`-th step of a sequence of which nothing is known
(60_exceptions.md R169). It has no body: notes/assumptions/6.md. -/
opaque Config.irqLine : Nat → Bool

end Sys2Proof
end

