-- ==== Sys2Proof/Machine/Memory.lean ====
section
/-! DEFINITION. The array `M` (10_state.md R40) as plain data: a list of (cell, byte) in one canonical form. -/

namespace Sys2Proof.Machine

/-- The storage array: cell numbers with the byte each holds; a cell not listed holds `Memory.unlisted`. -/
abbrev Memory := List Host.Cell

/-- What a cell that is not listed holds. Every array of 65,536 bytes is some list over it; `State.reset` takes the empty
list for the spec's `InitMem`. DESIGN CHOICE: notes/assumptions/3.md. -/
def Memory.unlisted : Byte := 0x00

/-- The byte in a cell. -/
def Memory.read : Memory → Nat → Byte
  | [], _ => Memory.unlisted
  | (k, v) :: m, c => if c = k then v else Memory.read m c

/-- The memory with one cell set; writing `Memory.unlisted` takes the cell out of the list. -/
def Memory.write : Memory → Nat → Byte → Memory
  | [], c, v => if v = Memory.unlisted then [] else [(c, v)]
  | (k, w) :: m, c, v =>
    if c < k then (if v = Memory.unlisted then (k, w) :: m else (c, v) :: (k, w) :: m)
    else if c = k then (if v = Memory.unlisted then m else (c, v) :: m)
    else (k, w) :: Memory.write m c v

/-- The canonical form: cells strictly rising, each below 65,536, none holding `Memory.unlisted`. -/
def Memory.wf : Memory → Bool
  | [] => true
  | (k, v) :: m =>
    decide (k < 65536) && decide (v ≠ Memory.unlisted) && m.all (fun e => decide (k < e.1)) && Memory.wf m

end Sys2Proof.Machine
end

