-- ==== Sys2Proof/Machine/State.lean ====
section
/-! DEFINITION. The machine's state (10_state.md R19), what can stop a step, and the state after reset. -/

namespace Sys2Proof.Machine

/-- Why the machine makes no further step. -/
inductive Fault where
  /-- `DecodeError(byte, addr)`: the illegal opcode `byte` was fetched at `addr` (60_exceptions.md R165). The step that
  fetches it records it in `State.fault`; every later step stops with it (10_state.md R37). Safe: it is the spec's own. -/
  | decodeError (byte : Byte) (addr : Addr)
  deriving DecidableEq, Repr

/-- Why the model gives an instruction no meaning. -/
inductive Refusal where
  /-- Raised by an arm of `exec` for an instruction that has no meaning yet; no arm raises it. Safe. -/
  | notModelled (mnemonic : String)
  deriving DecidableEq, Repr

/-- What the host presents at one step: an NMI edge and the level of the IRQ line (30_encoding.md R79,
60_exceptions.md R167, R168). -/
structure HostInput where
  nmiEdge : Bool
  irqLine : Bool
  deriving DecidableEq, Repr

/-- What the host presents at the steps after those a schedule lists: the same at every one, or any sequence at all, of
which nothing is known, from its `n`-th member on (60_exceptions.md R169). The model's own: notes/assumptions/6.md. -/
inductive HostRest where
  | always (i : HostInput)
  | anything (n : Nat)
  deriving DecidableEq, Repr

/-- What the host presents at the coming steps: the listed inputs, the next step's first, and after them the rest. By
default the host presents nothing. The model's own: notes/assumptions/6.md. -/
structure HostSchedule where
  listed : List HostInput := []
  rest : HostRest := .always ⟨false, false⟩
  deriving DecidableEq, Repr

/-- The state record `S` (10_state.md R19), with the configuration and the model's own two fields. -/
structure State where
  /-- `A` (R20). -/
  a : Byte
  /-- `X` (R21). -/
  x : Byte
  /-- `Y` (R22). -/
  y : Byte
  /-- `SP` (R23). -/
  sp : Byte
  /-- `P` (R25); bit 5 reads as 1 (R26), so read it through `State.readP` and `State.flag`. -/
  p : Byte
  /-- `PC` (R24). -/
  pc : Addr
  /-- `CYC`, the cycle cost of the last step (R36). -/
  cyc : Nat
  /-- `M` (R40); the bus gives it meaning. -/
  mem : Memory
  /-- `nmi_pending` (R38). -/
  nmiPending : Bool
  /-- `fault` (R37). -/
  fault : Option Fault
  /-- `Cfg` (R19), fixed for the run: no step changes it. DESIGN CHOICE (held in the state): notes/assumptions/1.md. -/
  cfg : Cfg
  /-- What the host presents at the coming steps. The model's own field: notes/assumptions/6.md. -/
  inputs : HostSchedule
  /-- How many draws `Config.ppuRead` has given. The model's own field: notes/assumptions/4.md. -/
  draws : Nat
  deriving DecidableEq, Repr

/-- The machine right after reset (10_state.md R42, 70_reset_and_hazards.md R186), with no cartridge loaded, the default
configuration (00_scope.md R15), no host input and nothing listed in memory. `pc` is `Read16($FFFC)` of that memory (the
lemma `Sys2Proof.Machine.reset_eq_applyReset`). DESIGN CHOICES: notes/assumptions/2.md, 3.md, 4.md, 6.md. -/
def State.reset : State where
  a := 0x00
  x := 0x00
  y := 0x00
  sp := 0xFF
  p := 0x20
  pc := 0x0000
  cyc := 8
  mem := []
  nmiPending := false
  fault := none
  cfg := {}
  inputs := {}
  draws := 0

end Sys2Proof.Machine
end

