-- ==== Sys2Proof/Machine/Ops.lean ====
section
/-! DEFINITION. The named operations over registers and memory: the register file, the status flags, the memory bus
arbiter with mapper 0, the stack, taking an interrupt or BRK and returning from it, recording a fault, and reset. -/

namespace Sys2Proof.Machine

/-- What a meaning answers. -/
abbrev Result := Host.Outcome State Fault Refusal

/-! ### The register file (00_scope.md R8) -/

def State.setA (s : State) (v : Byte) : State := { s with a := v }
def State.setX (s : State) (v : Byte) : State := { s with x := v }
def State.setY (s : State) (v : Byte) : State := { s with y := v }
def State.setSP (s : State) (v : Byte) : State := { s with sp := v }
def State.setP (s : State) (v : Byte) : State := { s with p := v }
def State.setPC (s : State) (v : Addr) : State := { s with pc := v }
def State.setCyc (s : State) (v : Nat) : State := { s with cyc := v }
def State.setMem (s : State) (v : Memory) : State := { s with mem := v }
def State.setNmiPending (s : State) (v : Bool) : State := { s with nmiPending := v }
def State.setFault (s : State) (v : Option Fault) : State := { s with fault := v }
def State.setInputs (s : State) (v : HostSchedule) : State := { s with inputs := v }
def State.setDraws (s : State) (v : Nat) : State := { s with draws := v }

/-- `PC <- (pc0 + length) mod 2^16`, from a state whose `pc` is the opcode's own address (30_encoding.md R81). -/
def State.advance (s : State) (length : Nat) : State := s.setPC (s.pc + BitVec.ofNat 16 length)

/-! ### The status flags on the state (00_scope.md R9) -/

/-- `ReadP()` (10_state.md R34). -/
def State.readP (s : State) : Byte := readStatus s.p

/-- `WriteP(v)` (10_state.md R34). -/
def State.writeP (s : State) (v : Byte) : State := s.setP (writeStatus v)

/-- `P.f` (00_scope.md R17). -/
def State.flag (s : State) (f : Flag) : Bool := getFlag s.p f

/-- `setFlag(f, cond)` (10_state.md R34). -/
def State.setFlag (s : State) (f : Flag) (cond : Bool) : State := s.setP (Machine.setFlag s.p f cond)

/-- `clearFlag(f)` (10_state.md R34). -/
def State.clearFlag (s : State) (f : Flag) : State := s.setP (Machine.clearFlag s.p f)

/-- `setNZ(r)` (10_state.md R35). -/
def State.setNZ (s : State) (r : Byte) : State := s.setP (Machine.setNZ s.p r)

/-! ### The memory bus arbiter and the cartridge mapper (00_scope.md R10, R11; 20_memory.md) -/

/-- The number of banks (20_memory.md R50). -/
def prgBankCount : PrgBanks → Nat
  | .one => 1
  | .two => 2

/-- The cell mapper 0 gives an address of the cartridge region (20_memory.md R51). -/
def mapperCell (cfg : Cfg) (a : Addr) : Nat :=
  match cfg.mapper with
  | .mapper0 => 0x8000 + (a.toNat - 0x8000) % (prgBankCount cfg.prgBanks * 0x4000)

/-- `cell(a)`: the storage cell of an address, none in the picture-unit window (20_memory.md R45). -/
def cell (cfg : Cfg) (a : Addr) : Option Nat :=
  if a.toNat < 0x2000 then some (a &&& 0x07FF).toNat
  else if a.toNat < 0x4000 then none
  else if a.toNat < 0x8000 then some a.toNat
  else some (mapperCell cfg a)

/-- `MapperRead(a)` (20_memory.md R51). -/
def State.mapperRead (s : State) (a : Addr) : Byte := s.mem.read (mapperCell s.cfg a)

/-- `MapperWrite(a, v)` (20_memory.md R52). -/
def State.mapperWrite (s : State) (a : Addr) (v : Byte) : State :=
  match s.cfg.mapper0Write with
  | .writeThrough => s.setMem (s.mem.write (mapperCell s.cfg a) v)
  | .ignore => s

/-- `BusRead(a)`, the byte read (20_memory.md R45, R47). A read changes nothing but the count of draws, which
`State.afterRead` advances. -/
def State.busRead (s : State) (a : Addr) : Byte :=
  match cell s.cfg a with
  | none => Config.ppuRead s.draws
  | some c => if a.toNat < 0x8000 then s.mem.read c else s.mapperRead a

/-- The state after `BusRead(a)`: a read of the picture-unit window takes a draw, so that the next read there gets
another (20_memory.md R47, R65); every other read leaves the state as it is. -/
def State.afterRead (s : State) (a : Addr) : State :=
  match cell s.cfg a with
  | none => s.setDraws (s.draws + 1)
  | some _ => s

/-- `BusWrite(a, v)` (20_memory.md R45, R48, R52). -/
def State.busWrite (s : State) (a : Addr) (v : Byte) : State :=
  match cell s.cfg a with
  | none => s
  | some c => if a.toNat < 0x8000 then s.setMem (s.mem.write c v) else s.mapperWrite a v

/-- `Read16(a)`, little-endian, the high address mod 2^16 (20_memory.md R61). The low byte is read first. -/
def State.read16 (s : State) (a : Addr) : Addr := wordOf ((s.afterRead a).busRead (a + 1)) (s.busRead a)

/-- The storage an address names, none in the picture-unit window: what a reader of memory sees, with no draw. -/
def State.peek (s : State) (a : Addr) : Option Byte := (cell s.cfg a).map s.mem.read

/-! ### The stack (20_memory.md R58, R59) -/

/-- `$0100 + SP`, the address of a stack byte (10_state.md R23). -/
def stackAddr (sp : Byte) : Addr := 0x0100 + sp.setWidth 16

/-- `Push(v)` (20_memory.md R58). -/
def State.push (s : State) (v : Byte) : State := (s.busWrite (stackAddr s.sp) v).setSP (s.sp - 1)

/-- `Pull()` (20_memory.md R59): the byte and the state after. The stack page is RAM, so the read takes no draw. -/
def State.pull (s : State) : Byte × State := (s.busRead (stackAddr (s.sp + 1)), s.setSP (s.sp + 1))

/-- Push a 16-bit value, high byte then low byte (20_memory.md R60). -/
def State.push16 (s : State) (w : Addr) : State := (s.push (hiByte w)).push (loByte w)

/-- Pull a 16-bit value, low byte then high byte (47_jump_call_return.md R143, R144). -/
def State.pull16 (s : State) : Addr × State :=
  let lo := s.pull
  let hi := lo.2.pull
  (wordOf hi.1 lo.1, hi.2)

/-! ### Interrupts, BRK, the return and the fault (60_exceptions.md) -/

/-- The NMI vector (20_memory.md R57). -/
def nmiVector : Addr := 0xFFFA

/-- The reset vector (20_memory.md R57). -/
def resetVector : Addr := 0xFFFC

/-- The IRQ and BRK vector (20_memory.md R57). -/
def irqVector : Addr := 0xFFFE

/-- The one entry sequence of IRQ, NMI and BRK (60_exceptions.md R172 to R175): push the return address high then low,
push `P`, load `PC` from the vector, set B, and set I where the entry does. -/
def State.enterInterrupt (s : State) (ret vector : Addr) (setsI : Bool) : State :=
  let pushed := (s.push16 ret).push s.readP
  let entered := (pushed.setPC (pushed.read16 vector)).setFlag .b true
  if setsI then entered.setFlag .i true else entered

/-- IRQ entry (60_exceptions.md R172). -/
def State.irqEntry (s : State) : State := (s.enterInterrupt s.pc irqVector true).setCyc 7

/-- NMI entry (60_exceptions.md R173); it does not set I. -/
def State.nmiEntry (s : State) : State := ((s.enterInterrupt s.pc nmiVector false).setNmiPending false).setCyc 8

/-- BRK entry (49_flags_transfer_misc.md R162, 60_exceptions.md R174): the return address skips a padding byte and B is
set before `P` is pushed. `pc` is the opcode's own address. -/
def State.brkEntry (s : State) : State := (s.setFlag .b true).enterInterrupt (s.pc + 2) irqVector true

/-- The return from IRQ, NMI and BRK (47_jump_call_return.md R144, 60_exceptions.md R177). -/
def State.returnFromInterrupt (s : State) : State :=
  let status := s.pull
  let ret := (status.2.writeP status.1).pull16
  ret.2.setPC ret.1

/-- `raise DecodeError(byte, addr)`: record the fault and change nothing else (60_exceptions.md R165). -/
def State.raiseDecodeError (s : State) (byte : Byte) (addr : Addr) : State :=
  s.setFault (some (.decodeError byte addr))

/-! ### Reset and the register view -/

/-- The reset sequence (70_reset_and_hazards.md R186). It writes no memory. -/
def State.applyReset (s : State) : State :=
  { s with
    a := 0x00, x := 0x00, y := 0x00, sp := 0xFF, p := 0x20, cyc := 8, nmiPending := false, fault := none
    pc := match s.cfg.resetPcMode with
      | .vector => s.read16 resetVector
      | .fixed8000 => 0x8000 }

/-- The host's read-only view of the registers (00_scope.md R12). -/
structure RegisterView where
  a : Byte
  x : Byte
  y : Byte
  status : Byte
  sp : Byte
  pc : Addr
  deriving DecidableEq, Repr

/-- The register view of a state (00_scope.md R12). -/
def State.registerView (s : State) : RegisterView := ⟨s.a, s.x, s.y, s.readP, s.sp, s.pc⟩

end Sys2Proof.Machine
end

