-- ==== Sys2Proof/Machine/Operands.lean ====
section
/-! DEFINITION. The address-mode resolver (30_encoding.md R82 to R97, 00_scope.md R6) and the shared shapes of the
instruction classes (30_encoding.md R79, R96, R97). In each, `s.pc` is the opcode's own address `pc0`. -/

namespace Sys2Proof.Machine

/-- Whether two addresses lie on different pages (30_encoding.md R90). -/
def pageDiffers (a b : Addr) : Bool := a &&& 0xFF00 != b &&& 0xFF00

/-- A zero-page address (30_encoding.md R86). -/
def zeroPage (z : Byte) : Addr := z.setWidth 16

/-- The pointer at a zero-page address, its high byte wrapping within the page (30_encoding.md R93, R94). The zero page is
RAM, so the reads take no draw. -/
def State.zeroPagePointer (s : State) (t : Byte) : Addr :=
  wordOf (s.busRead (zeroPage (t + 1))) (s.busRead (zeroPage t))

/-- The address an index is added to: the base of ABSX, ABSY and IZY; in another mode the effective address itself. -/
def State.baseAddr (s : State) : MemOperand → Addr
  | .zp z => zeroPage z
  | .zpx z => zeroPage (z + s.x)
  | .zpy z => zeroPage (z + s.y)
  | .abs addr => addr
  | .absx addr => addr
  | .absy addr => addr
  | .izx z => s.zeroPagePointer (z + s.x)
  | .izy z => s.zeroPagePointer z

/-- The effective address of a memory operand (30_encoding.md R86 to R91, R93, R94). -/
def State.ea (s : State) (m : MemOperand) : Addr :=
  match m with
  | .zp _ | .zpx _ | .zpy _ | .abs _ | .izx _ => s.baseAddr m
  | .absx _ => s.baseAddr m + s.x.setWidth 16
  | .absy _ | .izy _ => s.baseAddr m + s.y.setWidth 16

/-- `page_crossed` of a memory operand (30_encoding.md R86 to R94); false where the base is the effective address. -/
def State.pageCrossed (s : State) (m : MemOperand) : Bool := pageDiffers (s.baseAddr m) (s.ea m)

/-- The address of the high byte of JMP's pointer (30_encoding.md R92). -/
def jmpPointerHigh (cfg : Cfg) (ptr : Addr) : Addr :=
  if cfg.jmpIndPageWrap then (ptr &&& 0xFF00) ||| ((ptr + 1) &&& 0x00FF) else ptr + 1

/-- The effective address of IND (30_encoding.md R92): the low byte is read first. -/
def State.jmpIndirect (s : State) (ptr : Addr) : Addr :=
  wordOf ((s.afterRead ptr).busRead (jmpPointerHigh s.cfg ptr)) (s.busRead ptr)

/-- The state after the two pointer reads of IND. -/
def State.afterJmpIndirect (s : State) (ptr : Addr) : State :=
  (s.afterRead ptr).afterRead (jmpPointerHigh s.cfg ptr)

/-- `sext_16(d)` (00_scope.md R17). -/
def sext16 (d : Byte) : Addr := d.signExtend 16

/-- The target of a branch at `pc0` (30_encoding.md R95). -/
def branchTarget (pc0 : Addr) (d : Byte) : Addr := (pc0 + 2) + sext16 d

/-- Where an operand value comes from (30_encoding.md R82). -/
inductive OperandSrc where
  | none
  | imm (v : Byte)
  | acc
  | mem
  deriving DecidableEq, Repr

/-- What the resolver answers (30_encoding.md R82). -/
structure Resolved where
  ea : Option Addr
  operandSrc : OperandSrc
  pageCrossed : Bool
  deriving DecidableEq, Repr

/-- `Resolve(mode, pc0, b1, b2)` (30_encoding.md R82 to R95), with the operand bytes inside the operand and `pc0` in
`s.pc`. For REL the target stands in `ea`: DESIGN CHOICE, notes/assumptions/10.md. For IND and REL `operand_src` is
`None`: DESIGN CHOICE, notes/assumptions/16.md. -/
def State.resolve (s : State) : Operand → Resolved
  | .imp => ⟨.none, .none, false⟩
  | .acc => ⟨.none, .acc, false⟩
  | .imm v => ⟨.none, .imm v, false⟩
  | .mem m => ⟨some (s.ea m), .mem, s.pageCrossed m⟩
  | .ind ptr => ⟨some (s.jmpIndirect ptr), .none, false⟩
  | .rel d => ⟨some (branchTarget s.pc d), .none, pageDiffers (s.pc + 2) (branchTarget s.pc d)⟩

/-! ### The shapes of the instruction classes -/

/-- A `read` instruction on an immediate byte: advance, then the effect `op` of the operand (30_encoding.md R79, R96). -/
def readImm (op : Byte → State → State) (base : Nat) (v : Byte) (s : State) : Result :=
  .next ((op v (s.advance 2)).setCyc base)

/-- A `read` instruction on memory: the operand is read once, before any write; a page crossing costs a cycle
(30_encoding.md R79, R96; 70_reset_and_hazards.md R197). -/
def readMem (op : Byte → State → State) (base : Nat) (m : MemOperand) (s : State) : Result :=
  .next ((op (s.busRead (s.ea m)) ((s.afterRead (s.ea m)).advance m.mode.length)).setCyc
    (base + if s.pageCrossed m then 1 else 0))

/-- A `write` instruction: store the register `src` at the effective address (30_encoding.md R96). -/
def storeMem (src : State → Byte) (base : Nat) (m : MemOperand) (s : State) : Result :=
  .next (((s.advance m.mode.length).busWrite (s.ea m) (src s)).setCyc base)

/-- A `rmw` instruction on memory: read once, then write the result once to the same address (30_encoding.md R96, R97).
`op` gives the result, and the state with its flags set. -/
def rmwMem (op : Byte → State → Byte × State) (base : Nat) (m : MemOperand) (s : State) : Result :=
  let q := op (s.busRead (s.ea m)) ((s.afterRead (s.ea m)).advance m.mode.length)
  .next ((q.2.busWrite (s.ea m) q.1).setCyc base)

/-- A `rmw_acc` instruction: the operand and the result are the accumulator (30_encoding.md R84, R97). -/
def rmwAcc (op : Byte → State → Byte × State) (base : Nat) (s : State) : Result :=
  let q := op s.a (s.advance 1)
  .next ((q.2.setA q.1).setCyc base)

/-- An `implied` instruction that goes on to the next one (30_encoding.md R83, R96). -/
def implied (op : State → State) (base : Nat) (s : State) : Result :=
  .next ((op (s.advance 1)).setCyc base)

/-- A conditional branch (46_branch.md R132; its cycles 70_reset_and_hazards.md R197). -/
def branchIf (cond : State → Bool) (d : Byte) (s : State) : Result :=
  if cond s then
    .next ((s.setPC (branchTarget s.pc d)).setCyc (3 + if pageDiffers (s.pc + 2) (branchTarget s.pc d) then 1 else 0))
  else
    .next ((s.advance 2).setCyc 2)

end Sys2Proof.Machine
end

