-- ==== Sys2Proof/Machine/Arithmetic.lean ====
section
/-! DEFINITION. Arithmetic instructions (41_arithmetic.md R107 to R110). D is read by neither. -/

namespace Sys2Proof.Machine

/-- The accumulator and the flags after an addition. -/
def setSum (q : AddResult) (s : State) : State := (((s.setA q.r).setFlag .c q.c).setFlag .v q.v).setNZ q.r

/-- The effect of ADC on its operand (R109). -/
def adcEffect (m : Byte) (s : State) : State := setSum (add8 s.a m (s.flag .c)) s

/-- The effect of SBC on its operand: the adder on its complement (R110). -/
def sbcEffect (m : Byte) (s : State) : State := setSum (add8 s.a (m ^^^ 0xFF) (s.flag .c)) s

/-- ADC IZX ($61): R109. -/
def execAdcIzx (z : Byte) (s : State) : Result := readMem adcEffect 6 (.izx z) s

/-- ADC ZP ($65): R109. -/
def execAdcZp (z : Byte) (s : State) : Result := readMem adcEffect 3 (.zp z) s

/-- ADC IMM ($69): R109. -/
def execAdcImm (v : Byte) (s : State) : Result := readImm adcEffect 2 v s

/-- ADC ABS ($6D): R109. -/
def execAdcAbs (addr : Addr) (s : State) : Result := readMem adcEffect 4 (.abs addr) s

/-- ADC IZY ($71): R109. -/
def execAdcIzy (z : Byte) (s : State) : Result := readMem adcEffect 5 (.izy z) s

/-- ADC ZPX ($75): R109. -/
def execAdcZpx (z : Byte) (s : State) : Result := readMem adcEffect 4 (.zpx z) s

/-- ADC ABSY ($79): R109. -/
def execAdcAbsy (addr : Addr) (s : State) : Result := readMem adcEffect 4 (.absy addr) s

/-- ADC ABSX ($7D): R109. -/
def execAdcAbsx (addr : Addr) (s : State) : Result := readMem adcEffect 4 (.absx addr) s

/-- SBC IZX ($E1): R110. -/
def execSbcIzx (z : Byte) (s : State) : Result := readMem sbcEffect 6 (.izx z) s

/-- SBC ZP ($E5): R110. -/
def execSbcZp (z : Byte) (s : State) : Result := readMem sbcEffect 3 (.zp z) s

/-- SBC IMM ($E9): R110. -/
def execSbcImm (v : Byte) (s : State) : Result := readImm sbcEffect 2 v s

/-- SBC ABS ($ED): R110. -/
def execSbcAbs (addr : Addr) (s : State) : Result := readMem sbcEffect 4 (.abs addr) s

/-- SBC IZY ($F1): R110. -/
def execSbcIzy (z : Byte) (s : State) : Result := readMem sbcEffect 5 (.izy z) s

/-- SBC ZPX ($F5): R110. -/
def execSbcZpx (z : Byte) (s : State) : Result := readMem sbcEffect 4 (.zpx z) s

/-- SBC ABSY ($F9): R110. -/
def execSbcAbsy (addr : Addr) (s : State) : Result := readMem sbcEffect 4 (.absy addr) s

/-- SBC ABSX ($FD): R110. -/
def execSbcAbsx (addr : Addr) (s : State) : Result := readMem sbcEffect 4 (.absx addr) s

end Sys2Proof.Machine
end

