-- ==== Sys2Proof/Machine/Branch.lean ====
section
/-! DEFINITION. Branch instructions (46_branch.md R132 to R140). -/

namespace Sys2Proof.Machine


/-- BPL REL ($10): R138. -/
def execBpl (d : Byte) (s : State) : Result := branchIf (fun t => !t.flag .n) d s

/-- BMI REL ($30): R136. -/
def execBmi (d : Byte) (s : State) : Result := branchIf (fun t => t.flag .n) d s

/-- BVC REL ($50): R139. -/
def execBvc (d : Byte) (s : State) : Result := branchIf (fun t => !t.flag .v) d s

/-- BVS REL ($70): R140. -/
def execBvs (d : Byte) (s : State) : Result := branchIf (fun t => t.flag .v) d s

/-- BCC REL ($90): R133. -/
def execBcc (d : Byte) (s : State) : Result := branchIf (fun t => !t.flag .c) d s

/-- BCS REL ($B0): R134. -/
def execBcs (d : Byte) (s : State) : Result := branchIf (fun t => t.flag .c) d s

/-- BNE REL ($D0): R137. -/
def execBne (d : Byte) (s : State) : Result := branchIf (fun t => !t.flag .z) d s

/-- BEQ REL ($F0): R135. -/
def execBeq (d : Byte) (s : State) : Result := branchIf (fun t => t.flag .z) d s

end Sys2Proof.Machine
end

