-- ==== Sys2Proof/Machine/Compare.lean ====
section
/-! DEFINITION. Compare instructions (44_compare.md R121 to R124). -/

namespace Sys2Proof.Machine

/-- The effect of CMP on its operand (R122). -/
def cmpEffect (m : Byte) (s : State) : State := s.setP (cmp8 s.p s.a m)

/-- The effect of CPX on its operand (R123). -/
def cpxEffect (m : Byte) (s : State) : State := s.setP (cmp8 s.p s.x m)

/-- The effect of CPY on its operand (R124). -/
def cpyEffect (m : Byte) (s : State) : State := s.setP (cmp8 s.p s.y m)

/-- CMP IZX ($C1): R122. -/
def execCmpIzx (z : Byte) (s : State) : Result := readMem cmpEffect 6 (.izx z) s

/-- CMP ZP ($C5): R122. -/
def execCmpZp (z : Byte) (s : State) : Result := readMem cmpEffect 3 (.zp z) s

/-- CMP IMM ($C9): R122. -/
def execCmpImm (v : Byte) (s : State) : Result := readImm cmpEffect 2 v s

/-- CMP ABS ($CD): R122. -/
def execCmpAbs (addr : Addr) (s : State) : Result := readMem cmpEffect 4 (.abs addr) s

/-- CMP IZY ($D1): R122. -/
def execCmpIzy (z : Byte) (s : State) : Result := readMem cmpEffect 5 (.izy z) s

/-- CMP ZPX ($D5): R122. -/
def execCmpZpx (z : Byte) (s : State) : Result := readMem cmpEffect 4 (.zpx z) s

/-- CMP ABSY ($D9): R122. -/
def execCmpAbsy (addr : Addr) (s : State) : Result := readMem cmpEffect 4 (.absy addr) s

/-- CMP ABSX ($DD): R122. -/
def execCmpAbsx (addr : Addr) (s : State) : Result := readMem cmpEffect 4 (.absx addr) s

/-- CPX IMM ($E0): R123. -/
def execCpxImm (v : Byte) (s : State) : Result := readImm cpxEffect 2 v s

/-- CPX ZP ($E4): R123. -/
def execCpxZp (z : Byte) (s : State) : Result := readMem cpxEffect 3 (.zp z) s

/-- CPX ABS ($EC): R123. -/
def execCpxAbs (addr : Addr) (s : State) : Result := readMem cpxEffect 4 (.abs addr) s

/-- CPY IMM ($C0): R124. -/
def execCpyImm (v : Byte) (s : State) : Result := readImm cpyEffect 2 v s

/-- CPY ZP ($C4): R124. -/
def execCpyZp (z : Byte) (s : State) : Result := readMem cpyEffect 3 (.zp z) s

/-- CPY ABS ($CC): R124. -/
def execCpyAbs (addr : Addr) (s : State) : Result := readMem cpyEffect 4 (.abs addr) s

end Sys2Proof.Machine
end

