-- ==== Sys2Proof/Machine/FlagsTransferMisc.lean ====
section
/-! DEFINITION. Flag set and clear, transfers, BRK and NOP (49_flags_transfer_misc.md R149 to R163). -/

namespace Sys2Proof.Machine

/-- The effect of TAX (R156). -/
def taxEffect (s : State) : State := (s.setX s.a).setNZ s.a

/-- The effect of TAY (R157). -/
def tayEffect (s : State) : State := (s.setY s.a).setNZ s.a

/-- The effect of TXA (R158). -/
def txaEffect (s : State) : State := (s.setA s.x).setNZ s.x

/-- The effect of TYA (R159). -/
def tyaEffect (s : State) : State := (s.setA s.y).setNZ s.y

/-- The effect of TSX (R160). -/
def tsxEffect (s : State) : State := (s.setX s.sp).setNZ s.sp

/-- The effect of TXS: the one transfer that leaves N and Z alone (R161). -/
def txsEffect (s : State) : State := s.setSP s.x

/-- CLC IMP ($18): R149. -/
def execClc (s : State) : Result := implied (fun t => t.clearFlag .c) 2 s

/-- SEC IMP ($38): R150. -/
def execSec (s : State) : Result := implied (fun t => t.setFlag .c true) 2 s

/-- CLI IMP ($58): R151. -/
def execCli (s : State) : Result := implied (fun t => t.clearFlag .i) 2 s

/-- SEI IMP ($78): R152. -/
def execSei (s : State) : Result := implied (fun t => t.setFlag .i true) 2 s

/-- CLD IMP ($D8): R153. -/
def execCld (s : State) : Result := implied (fun t => t.clearFlag .d) 2 s

/-- SED IMP ($F8): R154. -/
def execSed (s : State) : Result := implied (fun t => t.setFlag .d true) 2 s

/-- CLV IMP ($B8): R155. -/
def execClv (s : State) : Result := implied (fun t => t.clearFlag .v) 2 s

/-- TAX IMP ($AA): R156. -/
def execTax (s : State) : Result := implied taxEffect 2 s

/-- TAY IMP ($A8): R157. -/
def execTay (s : State) : Result := implied tayEffect 2 s

/-- TXA IMP ($8A): R158. -/
def execTxa (s : State) : Result := implied txaEffect 2 s

/-- TYA IMP ($98): R159. -/
def execTya (s : State) : Result := implied tyaEffect 2 s

/-- TSX IMP ($BA): R160. -/
def execTsx (s : State) : Result := implied tsxEffect 2 s

/-- TXS IMP ($9A): R161. -/
def execTxs (s : State) : Result := implied txsEffect 2 s

/-- BRK IMP ($00): R162. -/
def execBrk (s : State) : Result := .next (s.brkEntry.setCyc 7)

/-- NOP IMP ($EA): R163. -/
def execNop (s : State) : Result := implied id 2 s

end Sys2Proof.Machine
end

