-- ==== Sys2Proof/Machine/IncDec.lean ====
section
/-! DEFINITION. Increment and decrement instructions (45_inc_dec.md R125 to R131). -/

namespace Sys2Proof.Machine

/-- INC on its operand: the result, and the state with its flags set (R126). -/
def incEffect (v : Byte) (s : State) : Byte × State := (inc8 v, s.setNZ (inc8 v))

/-- DEC on its operand: the result, and the state with its flags set (R127). -/
def decEffect (v : Byte) (s : State) : Byte × State := (dec8 v, s.setNZ (dec8 v))

/-- The effect of INX (R128). -/
def inxEffect (s : State) : State := (s.setX (inc8 s.x)).setNZ (inc8 s.x)

/-- The effect of INY (R129). -/
def inyEffect (s : State) : State := (s.setY (inc8 s.y)).setNZ (inc8 s.y)

/-- The effect of DEX (R130). -/
def dexEffect (s : State) : State := (s.setX (dec8 s.x)).setNZ (dec8 s.x)

/-- The effect of DEY (R131). -/
def deyEffect (s : State) : State := (s.setY (dec8 s.y)).setNZ (dec8 s.y)

/-- INC ZP ($E6): R126. -/
def execIncZp (z : Byte) (s : State) : Result := rmwMem incEffect 5 (.zp z) s

/-- INC ABS ($EE): R126. -/
def execIncAbs (addr : Addr) (s : State) : Result := rmwMem incEffect 6 (.abs addr) s

/-- INC ZPX ($F6): R126. -/
def execIncZpx (z : Byte) (s : State) : Result := rmwMem incEffect 6 (.zpx z) s

/-- INC ABSX ($FE): R126. -/
def execIncAbsx (addr : Addr) (s : State) : Result := rmwMem incEffect 7 (.absx addr) s

/-- DEC ZP ($C6): R127. -/
def execDecZp (z : Byte) (s : State) : Result := rmwMem decEffect 5 (.zp z) s

/-- DEC ABS ($CE): R127. -/
def execDecAbs (addr : Addr) (s : State) : Result := rmwMem decEffect 6 (.abs addr) s

/-- DEC ZPX ($D6): R127. -/
def execDecZpx (z : Byte) (s : State) : Result := rmwMem decEffect 6 (.zpx z) s

/-- DEC ABSX ($DE): R127. -/
def execDecAbsx (addr : Addr) (s : State) : Result := rmwMem decEffect 7 (.absx addr) s

/-- INX IMP ($E8): R128. -/
def execInx (s : State) : Result := implied inxEffect 2 s

/-- INY IMP ($C8): R129. -/
def execIny (s : State) : Result := implied inyEffect 2 s

/-- DEX IMP ($CA): R130. -/
def execDex (s : State) : Result := implied dexEffect 2 s

/-- DEY IMP ($88): R131. -/
def execDey (s : State) : Result := implied deyEffect 2 s

end Sys2Proof.Machine
end

