-- ==== Sys2Proof/Machine/JumpCallReturn.lean ====
section
/-! DEFINITION. Jumps, calls and returns (47_jump_call_return.md R141 to R144). -/

namespace Sys2Proof.Machine

/-- JMP to a resolved target (R141). -/
def jumpTo (target : Addr) (base : Nat) (s : State) : Result := .next ((s.setPC target).setCyc base)

/-- The effect of JSR: push the address of its last byte, then jump (R142). `pc` is the opcode's own address. -/
def jsrEffect (target : Addr) (s : State) : State := (s.push16 (s.pc + 2)).setPC target

/-- The effect of RTS: pull the return address and add 1 (R143). -/
def rtsEffect (s : State) : State :=
  let ret := s.pull16
  ret.2.setPC (ret.1 + 1)

/-- JMP ABS ($4C): R141. -/
def execJmpAbs (addr : Addr) (s : State) : Result := jumpTo addr 3 s

/-- JMP IND ($6C): R141. -/
def execJmpInd (ptr : Addr) (s : State) : Result := jumpTo (s.jmpIndirect ptr) 5 (s.afterJmpIndirect ptr)

/-- JSR ABS ($20): R142. -/
def execJsr (addr : Addr) (s : State) : Result := .next ((jsrEffect addr s).setCyc 6)

/-- RTS IMP ($60): R143. -/
def execRts (s : State) : Result := .next ((rtsEffect s).setCyc 6)

/-- RTI IMP ($40): R144. -/
def execRti (s : State) : Result := .next (s.returnFromInterrupt.setCyc 6)

end Sys2Proof.Machine
end

