-- ==== Sys2Proof/Machine/LoadStore.lean ====
section
/-! DEFINITION. Load and store instructions (40_load_store.md R101 to R106). -/

namespace Sys2Proof.Machine

/-- The effect of LDA on its operand (R101). -/
def ldaEffect (v : Byte) (s : State) : State := (s.setA v).setNZ v

/-- The effect of LDX on its operand (R102). -/
def ldxEffect (v : Byte) (s : State) : State := (s.setX v).setNZ v

/-- The effect of LDY on its operand (R103). -/
def ldyEffect (v : Byte) (s : State) : State := (s.setY v).setNZ v

/-- LDA IZX ($A1): R101. -/
def execLdaIzx (z : Byte) (s : State) : Result := readMem ldaEffect 6 (.izx z) s

/-- LDA ZP ($A5): R101. -/
def execLdaZp (z : Byte) (s : State) : Result := readMem ldaEffect 3 (.zp z) s

/-- LDA IMM ($A9): R101. -/
def execLdaImm (v : Byte) (s : State) : Result := readImm ldaEffect 2 v s

/-- LDA ABS ($AD): R101. -/
def execLdaAbs (addr : Addr) (s : State) : Result := readMem ldaEffect 4 (.abs addr) s

/-- LDA IZY ($B1): R101. -/
def execLdaIzy (z : Byte) (s : State) : Result := readMem ldaEffect 5 (.izy z) s

/-- LDA ZPX ($B5): R101. -/
def execLdaZpx (z : Byte) (s : State) : Result := readMem ldaEffect 4 (.zpx z) s

/-- LDA ABSY ($B9): R101. -/
def execLdaAbsy (addr : Addr) (s : State) : Result := readMem ldaEffect 4 (.absy addr) s

/-- LDA ABSX ($BD): R101. -/
def execLdaAbsx (addr : Addr) (s : State) : Result := readMem ldaEffect 4 (.absx addr) s

/-- LDX IMM ($A2): R102. -/
def execLdxImm (v : Byte) (s : State) : Result := readImm ldxEffect 2 v s

/-- LDX ZP ($A6): R102. -/
def execLdxZp (z : Byte) (s : State) : Result := readMem ldxEffect 3 (.zp z) s

/-- LDX ABS ($AE): R102. -/
def execLdxAbs (addr : Addr) (s : State) : Result := readMem ldxEffect 4 (.abs addr) s

/-- LDX ZPY ($B6): R102. -/
def execLdxZpy (z : Byte) (s : State) : Result := readMem ldxEffect 4 (.zpy z) s

/-- LDX ABSY ($BE): R102. -/
def execLdxAbsy (addr : Addr) (s : State) : Result := readMem ldxEffect 4 (.absy addr) s

/-- LDY IMM ($A0): R103. -/
def execLdyImm (v : Byte) (s : State) : Result := readImm ldyEffect 2 v s

/-- LDY ZP ($A4): R103. -/
def execLdyZp (z : Byte) (s : State) : Result := readMem ldyEffect 3 (.zp z) s

/-- LDY ABS ($AC): R103. -/
def execLdyAbs (addr : Addr) (s : State) : Result := readMem ldyEffect 4 (.abs addr) s

/-- LDY ZPX ($B4): R103. -/
def execLdyZpx (z : Byte) (s : State) : Result := readMem ldyEffect 4 (.zpx z) s

/-- LDY ABSX ($BC): R103. -/
def execLdyAbsx (addr : Addr) (s : State) : Result := readMem ldyEffect 4 (.absx addr) s

/-- STA IZX ($81): R104. -/
def execStaIzx (z : Byte) (s : State) : Result := storeMem State.a 6 (.izx z) s

/-- STA ZP ($85): R104. -/
def execStaZp (z : Byte) (s : State) : Result := storeMem State.a 3 (.zp z) s

/-- STA ABS ($8D): R104. -/
def execStaAbs (addr : Addr) (s : State) : Result := storeMem State.a 4 (.abs addr) s

/-- STA IZY ($91): R104. -/
def execStaIzy (z : Byte) (s : State) : Result := storeMem State.a 6 (.izy z) s

/-- STA ZPX ($95): R104. -/
def execStaZpx (z : Byte) (s : State) : Result := storeMem State.a 4 (.zpx z) s

/-- STA ABSY ($99): R104. -/
def execStaAbsy (addr : Addr) (s : State) : Result := storeMem State.a 5 (.absy addr) s

/-- STA ABSX ($9D): R104. -/
def execStaAbsx (addr : Addr) (s : State) : Result := storeMem State.a 5 (.absx addr) s

/-- STX ZP ($86): R105. -/
def execStxZp (z : Byte) (s : State) : Result := storeMem State.x 3 (.zp z) s

/-- STX ABS ($8E): R105. -/
def execStxAbs (addr : Addr) (s : State) : Result := storeMem State.x 4 (.abs addr) s

/-- STX ZPY ($96): R105. -/
def execStxZpy (z : Byte) (s : State) : Result := storeMem State.x 4 (.zpy z) s

/-- STY ZP ($84): R106. -/
def execStyZp (z : Byte) (s : State) : Result := storeMem State.y 3 (.zp z) s

/-- STY ABS ($8C): R106. -/
def execStyAbs (addr : Addr) (s : State) : Result := storeMem State.y 4 (.abs addr) s

/-- STY ZPX ($94): R106. -/
def execStyZpx (z : Byte) (s : State) : Result := storeMem State.y 4 (.zpx z) s

end Sys2Proof.Machine
end

