-- ==== Sys2Proof/Machine/Logical.lean ====
section
/-! DEFINITION. Logical instructions (42_logical.md R111 to R115). -/

namespace Sys2Proof.Machine

/-- The effect of AND on its operand (R112). -/
def andEffect (m : Byte) (s : State) : State := (s.setA (and8 s.a m)).setNZ (and8 s.a m)

/-- The effect of ORA on its operand (R113). -/
def oraEffect (m : Byte) (s : State) : State := (s.setA (or8 s.a m)).setNZ (or8 s.a m)

/-- The effect of EOR on its operand (R114). -/
def eorEffect (m : Byte) (s : State) : State := (s.setA (xor8 s.a m)).setNZ (xor8 s.a m)

/-- The effect of BIT on its operand: Z from the AND, N and V from the operand (R115). -/
def bitEffect (m : Byte) (s : State) : State :=
  ((s.setFlag .z (and8 s.a m == 0)).setFlag .n (m.getLsbD 7)).setFlag .v (m.getLsbD 6)

/-- AND IZX ($21): R112. -/
def execAndIzx (z : Byte) (s : State) : Result := readMem andEffect 6 (.izx z) s

/-- AND ZP ($25): R112. -/
def execAndZp (z : Byte) (s : State) : Result := readMem andEffect 3 (.zp z) s

/-- AND IMM ($29): R112. -/
def execAndImm (v : Byte) (s : State) : Result := readImm andEffect 2 v s

/-- AND ABS ($2D): R112. -/
def execAndAbs (addr : Addr) (s : State) : Result := readMem andEffect 4 (.abs addr) s

/-- AND IZY ($31): R112. -/
def execAndIzy (z : Byte) (s : State) : Result := readMem andEffect 5 (.izy z) s

/-- AND ZPX ($35): R112. -/
def execAndZpx (z : Byte) (s : State) : Result := readMem andEffect 4 (.zpx z) s

/-- AND ABSY ($39): R112. -/
def execAndAbsy (addr : Addr) (s : State) : Result := readMem andEffect 4 (.absy addr) s

/-- AND ABSX ($3D): R112. -/
def execAndAbsx (addr : Addr) (s : State) : Result := readMem andEffect 4 (.absx addr) s

/-- ORA IZX ($01): R113. -/
def execOraIzx (z : Byte) (s : State) : Result := readMem oraEffect 6 (.izx z) s

/-- ORA ZP ($05): R113. -/
def execOraZp (z : Byte) (s : State) : Result := readMem oraEffect 3 (.zp z) s

/-- ORA IMM ($09): R113. -/
def execOraImm (v : Byte) (s : State) : Result := readImm oraEffect 2 v s

/-- ORA ABS ($0D): R113. -/
def execOraAbs (addr : Addr) (s : State) : Result := readMem oraEffect 4 (.abs addr) s

/-- ORA IZY ($11): R113. -/
def execOraIzy (z : Byte) (s : State) : Result := readMem oraEffect 5 (.izy z) s

/-- ORA ZPX ($15): R113. -/
def execOraZpx (z : Byte) (s : State) : Result := readMem oraEffect 4 (.zpx z) s

/-- ORA ABSY ($19): R113. -/
def execOraAbsy (addr : Addr) (s : State) : Result := readMem oraEffect 4 (.absy addr) s

/-- ORA ABSX ($1D): R113. -/
def execOraAbsx (addr : Addr) (s : State) : Result := readMem oraEffect 4 (.absx addr) s

/-- EOR IZX ($41): R114. -/
def execEorIzx (z : Byte) (s : State) : Result := readMem eorEffect 6 (.izx z) s

/-- EOR ZP ($45): R114. -/
def execEorZp (z : Byte) (s : State) : Result := readMem eorEffect 3 (.zp z) s

/-- EOR IMM ($49): R114. -/
def execEorImm (v : Byte) (s : State) : Result := readImm eorEffect 2 v s

/-- EOR ABS ($4D): R114. -/
def execEorAbs (addr : Addr) (s : State) : Result := readMem eorEffect 4 (.abs addr) s

/-- EOR IZY ($51): R114. -/
def execEorIzy (z : Byte) (s : State) : Result := readMem eorEffect 5 (.izy z) s

/-- EOR ZPX ($55): R114. -/
def execEorZpx (z : Byte) (s : State) : Result := readMem eorEffect 4 (.zpx z) s

/-- EOR ABSY ($59): R114. -/
def execEorAbsy (addr : Addr) (s : State) : Result := readMem eorEffect 4 (.absy addr) s

/-- EOR ABSX ($5D): R114. -/
def execEorAbsx (addr : Addr) (s : State) : Result := readMem eorEffect 4 (.absx addr) s

/-- BIT ZP ($24): R115. -/
def execBitZp (z : Byte) (s : State) : Result := readMem bitEffect 3 (.zp z) s

/-- BIT ABS ($2C): R115. -/
def execBitAbs (addr : Addr) (s : State) : Result := readMem bitEffect 4 (.abs addr) s

end Sys2Proof.Machine
end

