-- ==== Sys2Proof/Machine/ShiftRotate.lean ====
section
/-! DEFINITION. Shift and rotate instructions (43_shift_rotate.md R116 to R120): the result, and the state with its flags set. -/

namespace Sys2Proof.Machine

/-- The flags of a shift: C from the bit shifted out, N and Z from the result. -/
def shiftResult (q : Byte × Bool) (s : State) : Byte × State := (q.1, (s.setFlag .c q.2).setNZ q.1)

/-- ASL on its operand (R117). -/
def aslEffect (v : Byte) (s : State) : Byte × State := shiftResult (shl8 v) s

/-- LSR on its operand (R118). -/
def lsrEffect (v : Byte) (s : State) : Byte × State := shiftResult (shr8 v) s

/-- ROL on its operand (R119). -/
def rolEffect (v : Byte) (s : State) : Byte × State := shiftResult (rol8 v (s.flag .c)) s

/-- ROR on its operand (R120). -/
def rorEffect (v : Byte) (s : State) : Byte × State := shiftResult (ror8 v (s.flag .c)) s

/-- ASL ZP ($06): R117. -/
def execAslZp (z : Byte) (s : State) : Result := rmwMem aslEffect 5 (.zp z) s

/-- ASL ACC ($0A): R117. -/
def execAslAcc (s : State) : Result := rmwAcc aslEffect 2 s

/-- ASL ABS ($0E): R117. -/
def execAslAbs (addr : Addr) (s : State) : Result := rmwMem aslEffect 6 (.abs addr) s

/-- ASL ZPX ($16): R117. -/
def execAslZpx (z : Byte) (s : State) : Result := rmwMem aslEffect 6 (.zpx z) s

/-- ASL ABSX ($1E): R117. -/
def execAslAbsx (addr : Addr) (s : State) : Result := rmwMem aslEffect 7 (.absx addr) s

/-- LSR ZP ($46): R118. -/
def execLsrZp (z : Byte) (s : State) : Result := rmwMem lsrEffect 5 (.zp z) s

/-- LSR ACC ($4A): R118. -/
def execLsrAcc (s : State) : Result := rmwAcc lsrEffect 2 s

/-- LSR ABS ($4E): R118. -/
def execLsrAbs (addr : Addr) (s : State) : Result := rmwMem lsrEffect 6 (.abs addr) s

/-- LSR ZPX ($56): R118. -/
def execLsrZpx (z : Byte) (s : State) : Result := rmwMem lsrEffect 6 (.zpx z) s

/-- LSR ABSX ($5E): R118. -/
def execLsrAbsx (addr : Addr) (s : State) : Result := rmwMem lsrEffect 7 (.absx addr) s

/-- ROL ZP ($26): R119. -/
def execRolZp (z : Byte) (s : State) : Result := rmwMem rolEffect 5 (.zp z) s

/-- ROL ACC ($2A): R119. -/
def execRolAcc (s : State) : Result := rmwAcc rolEffect 2 s

/-- ROL ABS ($2E): R119. -/
def execRolAbs (addr : Addr) (s : State) : Result := rmwMem rolEffect 6 (.abs addr) s

/-- ROL ZPX ($36): R119. -/
def execRolZpx (z : Byte) (s : State) : Result := rmwMem rolEffect 6 (.zpx z) s

/-- ROL ABSX ($3E): R119. -/
def execRolAbsx (addr : Addr) (s : State) : Result := rmwMem rolEffect 7 (.absx addr) s

/-- ROR ZP ($66): R120. -/
def execRorZp (z : Byte) (s : State) : Result := rmwMem rorEffect 5 (.zp z) s

/-- ROR ACC ($6A): R120. -/
def execRorAcc (s : State) : Result := rmwAcc rorEffect 2 s

/-- ROR ABS ($6E): R120. -/
def execRorAbs (addr : Addr) (s : State) : Result := rmwMem rorEffect 6 (.abs addr) s

/-- ROR ZPX ($76): R120. -/
def execRorZpx (z : Byte) (s : State) : Result := rmwMem rorEffect 6 (.zpx z) s

/-- ROR ABSX ($7E): R120. -/
def execRorAbsx (addr : Addr) (s : State) : Result := rmwMem rorEffect 7 (.absx addr) s

end Sys2Proof.Machine
end

