-- ==== Sys2Proof/Machine/Stack.lean ====
section
/-! DEFINITION. Stack instructions (48_stack.md R145 to R148). -/

namespace Sys2Proof.Machine

/-- The effect of PHA (R145). -/
def phaEffect (s : State) : State := s.push s.a

/-- The effect of PHP: the pushed byte has U and B set; `P` is not changed (R146). -/
def phpEffect (s : State) : State := s.push (s.p ||| 0x30)

/-- The effect of PLA (R147). -/
def plaEffect (s : State) : State :=
  let q := s.pull
  (q.2.setA q.1).setNZ q.1

/-- The effect of PLP (R148). -/
def plpEffect (s : State) : State :=
  let q := s.pull
  q.2.writeP q.1

/-- PHA IMP ($48): R145. -/
def execPha (s : State) : Result := implied phaEffect 3 s

/-- PHP IMP ($08): R146. -/
def execPhp (s : State) : Result := implied phpEffect 3 s

/-- PLA IMP ($68): R147. -/
def execPla (s : State) : Result := implied plaEffect 4 s

/-- PLP IMP ($28): R148. -/
def execPlp (s : State) : Result := implied plpEffect 4 s

end Sys2Proof.Machine
end

