-- ==== Sys2Proof/Machine/Dispatch.lean ====
section
/-! DEFINITION. One arm per constructor of `Instr`, in the table's order. `exec` runs an instruction in a state whose
`pc` is the opcode's own address. -/

namespace Sys2Proof.Machine

def exec (i : Instr) (s : State) : Host.Outcome State Fault Refusal :=
  match i with
  | .brk => Sys2Proof.Machine.execBrk s
  | .oraIzx z => Sys2Proof.Machine.execOraIzx z s
  | .oraZp z => Sys2Proof.Machine.execOraZp z s
  | .aslZp z => Sys2Proof.Machine.execAslZp z s
  | .php => Sys2Proof.Machine.execPhp s
  | .oraImm v => Sys2Proof.Machine.execOraImm v s
  | .aslAcc => Sys2Proof.Machine.execAslAcc s
  | .oraAbs addr => Sys2Proof.Machine.execOraAbs addr s
  | .aslAbs addr => Sys2Proof.Machine.execAslAbs addr s
  | .bpl d => Sys2Proof.Machine.execBpl d s
  | .oraIzy z => Sys2Proof.Machine.execOraIzy z s
  | .oraZpx z => Sys2Proof.Machine.execOraZpx z s
  | .aslZpx z => Sys2Proof.Machine.execAslZpx z s
  | .clc => Sys2Proof.Machine.execClc s
  | .oraAbsy addr => Sys2Proof.Machine.execOraAbsy addr s
  | .oraAbsx addr => Sys2Proof.Machine.execOraAbsx addr s
  | .aslAbsx addr => Sys2Proof.Machine.execAslAbsx addr s
  | .jsr addr => Sys2Proof.Machine.execJsr addr s
  | .andIzx z => Sys2Proof.Machine.execAndIzx z s
  | .bitZp z => Sys2Proof.Machine.execBitZp z s
  | .andZp z => Sys2Proof.Machine.execAndZp z s
  | .rolZp z => Sys2Proof.Machine.execRolZp z s
  | .plp => Sys2Proof.Machine.execPlp s
  | .andImm v => Sys2Proof.Machine.execAndImm v s
  | .rolAcc => Sys2Proof.Machine.execRolAcc s
  | .bitAbs addr => Sys2Proof.Machine.execBitAbs addr s
  | .andAbs addr => Sys2Proof.Machine.execAndAbs addr s
  | .rolAbs addr => Sys2Proof.Machine.execRolAbs addr s
  | .bmi d => Sys2Proof.Machine.execBmi d s
  | .andIzy z => Sys2Proof.Machine.execAndIzy z s
  | .andZpx z => Sys2Proof.Machine.execAndZpx z s
  | .rolZpx z => Sys2Proof.Machine.execRolZpx z s
  | .sec => Sys2Proof.Machine.execSec s
  | .andAbsy addr => Sys2Proof.Machine.execAndAbsy addr s
  | .andAbsx addr => Sys2Proof.Machine.execAndAbsx addr s
  | .rolAbsx addr => Sys2Proof.Machine.execRolAbsx addr s
  | .rti => Sys2Proof.Machine.execRti s
  | .eorIzx z => Sys2Proof.Machine.execEorIzx z s
  | .eorZp z => Sys2Proof.Machine.execEorZp z s
  | .lsrZp z => Sys2Proof.Machine.execLsrZp z s
  | .pha => Sys2Proof.Machine.execPha s
  | .eorImm v => Sys2Proof.Machine.execEorImm v s
  | .lsrAcc => Sys2Proof.Machine.execLsrAcc s
  | .jmpAbs addr => Sys2Proof.Machine.execJmpAbs addr s
  | .eorAbs addr => Sys2Proof.Machine.execEorAbs addr s
  | .lsrAbs addr => Sys2Proof.Machine.execLsrAbs addr s
  | .bvc d => Sys2Proof.Machine.execBvc d s
  | .eorIzy z => Sys2Proof.Machine.execEorIzy z s
  | .eorZpx z => Sys2Proof.Machine.execEorZpx z s
  | .lsrZpx z => Sys2Proof.Machine.execLsrZpx z s
  | .cli => Sys2Proof.Machine.execCli s
  | .eorAbsy addr => Sys2Proof.Machine.execEorAbsy addr s
  | .eorAbsx addr => Sys2Proof.Machine.execEorAbsx addr s
  | .lsrAbsx addr => Sys2Proof.Machine.execLsrAbsx addr s
  | .rts => Sys2Proof.Machine.execRts s
  | .adcIzx z => Sys2Proof.Machine.execAdcIzx z s
  | .adcZp z => Sys2Proof.Machine.execAdcZp z s
  | .rorZp z => Sys2Proof.Machine.execRorZp z s
  | .pla => Sys2Proof.Machine.execPla s
  | .adcImm v => Sys2Proof.Machine.execAdcImm v s
  | .rorAcc => Sys2Proof.Machine.execRorAcc s
  | .jmpInd ptr => Sys2Proof.Machine.execJmpInd ptr s
  | .adcAbs addr => Sys2Proof.Machine.execAdcAbs addr s
  | .rorAbs addr => Sys2Proof.Machine.execRorAbs addr s
  | .bvs d => Sys2Proof.Machine.execBvs d s
  | .adcIzy z => Sys2Proof.Machine.execAdcIzy z s
  | .adcZpx z => Sys2Proof.Machine.execAdcZpx z s
  | .rorZpx z => Sys2Proof.Machine.execRorZpx z s
  | .sei => Sys2Proof.Machine.execSei s
  | .adcAbsy addr => Sys2Proof.Machine.execAdcAbsy addr s
  | .adcAbsx addr => Sys2Proof.Machine.execAdcAbsx addr s
  | .rorAbsx addr => Sys2Proof.Machine.execRorAbsx addr s
  | .staIzx z => Sys2Proof.Machine.execStaIzx z s
  | .styZp z => Sys2Proof.Machine.execStyZp z s
  | .staZp z => Sys2Proof.Machine.execStaZp z s
  | .stxZp z => Sys2Proof.Machine.execStxZp z s
  | .dey => Sys2Proof.Machine.execDey s
  | .txa => Sys2Proof.Machine.execTxa s
  | .styAbs addr => Sys2Proof.Machine.execStyAbs addr s
  | .staAbs addr => Sys2Proof.Machine.execStaAbs addr s
  | .stxAbs addr => Sys2Proof.Machine.execStxAbs addr s
  | .bcc d => Sys2Proof.Machine.execBcc d s
  | .staIzy z => Sys2Proof.Machine.execStaIzy z s
  | .styZpx z => Sys2Proof.Machine.execStyZpx z s
  | .staZpx z => Sys2Proof.Machine.execStaZpx z s
  | .stxZpy z => Sys2Proof.Machine.execStxZpy z s
  | .tya => Sys2Proof.Machine.execTya s
  | .staAbsy addr => Sys2Proof.Machine.execStaAbsy addr s
  | .txs => Sys2Proof.Machine.execTxs s
  | .staAbsx addr => Sys2Proof.Machine.execStaAbsx addr s
  | .ldyImm v => Sys2Proof.Machine.execLdyImm v s
  | .ldaIzx z => Sys2Proof.Machine.execLdaIzx z s
  | .ldxImm v => Sys2Proof.Machine.execLdxImm v s
  | .ldyZp z => Sys2Proof.Machine.execLdyZp z s
  | .ldaZp z => Sys2Proof.Machine.execLdaZp z s
  | .ldxZp z => Sys2Proof.Machine.execLdxZp z s
  | .tay => Sys2Proof.Machine.execTay s
  | .ldaImm v => Sys2Proof.Machine.execLdaImm v s
  | .tax => Sys2Proof.Machine.execTax s
  | .ldyAbs addr => Sys2Proof.Machine.execLdyAbs addr s
  | .ldaAbs addr => Sys2Proof.Machine.execLdaAbs addr s
  | .ldxAbs addr => Sys2Proof.Machine.execLdxAbs addr s
  | .bcs d => Sys2Proof.Machine.execBcs d s
  | .ldaIzy z => Sys2Proof.Machine.execLdaIzy z s
  | .ldyZpx z => Sys2Proof.Machine.execLdyZpx z s
  | .ldaZpx z => Sys2Proof.Machine.execLdaZpx z s
  | .ldxZpy z => Sys2Proof.Machine.execLdxZpy z s
  | .clv => Sys2Proof.Machine.execClv s
  | .ldaAbsy addr => Sys2Proof.Machine.execLdaAbsy addr s
  | .tsx => Sys2Proof.Machine.execTsx s
  | .ldyAbsx addr => Sys2Proof.Machine.execLdyAbsx addr s
  | .ldaAbsx addr => Sys2Proof.Machine.execLdaAbsx addr s
  | .ldxAbsy addr => Sys2Proof.Machine.execLdxAbsy addr s
  | .cpyImm v => Sys2Proof.Machine.execCpyImm v s
  | .cmpIzx z => Sys2Proof.Machine.execCmpIzx z s
  | .cpyZp z => Sys2Proof.Machine.execCpyZp z s
  | .cmpZp z => Sys2Proof.Machine.execCmpZp z s
  | .decZp z => Sys2Proof.Machine.execDecZp z s
  | .iny => Sys2Proof.Machine.execIny s
  | .cmpImm v => Sys2Proof.Machine.execCmpImm v s
  | .dex => Sys2Proof.Machine.execDex s
  | .cpyAbs addr => Sys2Proof.Machine.execCpyAbs addr s
  | .cmpAbs addr => Sys2Proof.Machine.execCmpAbs addr s
  | .decAbs addr => Sys2Proof.Machine.execDecAbs addr s
  | .bne d => Sys2Proof.Machine.execBne d s
  | .cmpIzy z => Sys2Proof.Machine.execCmpIzy z s
  | .cmpZpx z => Sys2Proof.Machine.execCmpZpx z s
  | .decZpx z => Sys2Proof.Machine.execDecZpx z s
  | .cld => Sys2Proof.Machine.execCld s
  | .cmpAbsy addr => Sys2Proof.Machine.execCmpAbsy addr s
  | .cmpAbsx addr => Sys2Proof.Machine.execCmpAbsx addr s
  | .decAbsx addr => Sys2Proof.Machine.execDecAbsx addr s
  | .cpxImm v => Sys2Proof.Machine.execCpxImm v s
  | .sbcIzx z => Sys2Proof.Machine.execSbcIzx z s
  | .cpxZp z => Sys2Proof.Machine.execCpxZp z s
  | .sbcZp z => Sys2Proof.Machine.execSbcZp z s
  | .incZp z => Sys2Proof.Machine.execIncZp z s
  | .inx => Sys2Proof.Machine.execInx s
  | .sbcImm v => Sys2Proof.Machine.execSbcImm v s
  | .nop => Sys2Proof.Machine.execNop s
  | .cpxAbs addr => Sys2Proof.Machine.execCpxAbs addr s
  | .sbcAbs addr => Sys2Proof.Machine.execSbcAbs addr s
  | .incAbs addr => Sys2Proof.Machine.execIncAbs addr s
  | .beq d => Sys2Proof.Machine.execBeq d s
  | .sbcIzy z => Sys2Proof.Machine.execSbcIzy z s
  | .sbcZpx z => Sys2Proof.Machine.execSbcZpx z s
  | .incZpx z => Sys2Proof.Machine.execIncZpx z s
  | .sed => Sys2Proof.Machine.execSed s
  | .sbcAbsy addr => Sys2Proof.Machine.execSbcAbsy addr s
  | .sbcAbsx addr => Sys2Proof.Machine.execSbcAbsx addr s
  | .incAbsx addr => Sys2Proof.Machine.execIncAbsx addr s

end Sys2Proof.Machine
end

