-- ==== Sys2Proof/Machine/Fetch.lean ====
section
/-! DEFINITION. What happens at an instruction boundary before an instruction runs: the host's inputs, which event is
taken, and the fetch unit (30_encoding.md R79, R80; 60_exceptions.md R167 to R171). -/

namespace Sys2Proof.Machine

/-- The first input of the rest of a schedule (60_exceptions.md R169). -/
def HostRest.head : HostRest → HostInput
  | .always i => i
  | .anything n => ⟨Config.nmiEdge n, Config.irqLine n⟩

/-- The rest of a schedule after its first input. -/
def HostRest.tail : HostRest → HostRest
  | .always i => .always i
  | .anything n => .anything (n + 1)

/-- The first input of a schedule. -/
def HostSchedule.head (h : HostSchedule) : HostInput :=
  match h.listed with
  | [] => h.rest.head
  | i :: _ => i

/-- A schedule after its first input. -/
def HostSchedule.tail (h : HostSchedule) : HostSchedule :=
  match h.listed with
  | [] => { h with rest := h.rest.tail }
  | _ :: l => { h with listed := l }

/-- A schedule with one more input before it. -/
def HostSchedule.cons (i : HostInput) (h : HostSchedule) : HostSchedule := { h with listed := i :: h.listed }

/-- The host input of the coming step (30_encoding.md R79). -/
def State.input (s : State) : HostInput := s.inputs.head

/-- The state once the step has taken its host input: an NMI edge is latched (60_exceptions.md R167). DESIGN CHOICE (one
input a step, whatever the step does): notes/assumptions/7.md. -/
def State.latchInputs (s : State) : State :=
  (s.setNmiPending (s.nmiPending || s.input.nmiEdge)).setInputs s.inputs.tail

/-- What a step does (60_exceptions.md R171). -/
inductive Event where
  | stopped (f : Fault)
  | nmi
  | irq
  | instruction
  deriving DecidableEq, Repr

/-- The event a boundary takes: a recorded fault, then NMI, then IRQ if I is clear, then the instruction at `PC`
(60_exceptions.md R171). -/
def State.event (s : State) : Event :=
  match s.fault with
  | some f => .stopped f
  | none =>
    if s.nmiPending || s.input.nmiEdge then .nmi
    else if s.input.irqLine && !s.flag .i then .irq
    else .instruction

/-- Read bytes at rising addresses, with the state after the reads. -/
def State.readBytes (s : State) (a : Addr) : Nat → List Byte × State
  | 0 => ([], s)
  | n + 1 =>
    let rest := State.readBytes (s.afterRead a) (a + 1) n
    (s.busRead a :: rest.1, rest.2)

/-- How many bytes the fetch unit reads for an opcode byte: its length; for an illegal one the opcode alone
(60_exceptions.md R165). -/
def fetchLength (op : Byte) : Nat :=
  match decodeOpcode op with
  | some e => e.length
  | none => 1

/-- The fetch unit at `pc0`: the opcode byte and the operand bytes its length asks for (00_scope.md R4). -/
def State.fetch (s : State) (pc0 : Addr) : List Byte × State := s.readBytes pc0 (fetchLength (s.busRead pc0))

/-- Whether the bytes an instruction at `a` may need all lie in storage, outside the picture-unit window. -/
def fetchable (cfg : Cfg) (a : Addr) : Bool :=
  (cell cfg a).isSome && (cell cfg (a + 1)).isSome && (cell cfg (a + 2)).isSome

/-- Store a byte in the cell of an address, whatever `MAPPER0_WRITE` says: what a load from outside does. -/
def State.place (s : State) (a : Addr) (v : Byte) : State :=
  match cell s.cfg a with
  | none => s
  | some c => s.setMem (s.mem.write c v)

/-- The state made ready to run the instruction at its `pc` next: no fault recorded, no NMI pending, a quiet host input,
and `pc` at $8000 where the bytes at it would be drawn from the picture-unit window (notes/assumptions/11.md). -/
def State.readyToFetch (s : State) : State :=
  { s with
    fault := none
    nmiPending := false
    inputs := s.inputs.tail.cons ⟨false, false⟩
    pc := if fetchable s.cfg s.pc then s.pc else 0x8000 }

/-- Place the three bytes of a table word, all bits at or above `nbits` zero, at the program counter. -/
def State.placeWord (s : State) (nbits w : Nat) : State :=
  let v := w % 2 ^ nbits
  ((s.place s.pc (BitVec.ofNat 8 v)).place (s.pc + 1) (BitVec.ofNat 8 (v / 256))).place (s.pc + 2)
    (BitVec.ofNat 8 (v / 65536))

end Sys2Proof.Machine
end

