-- ==== Sys2Proof/Machine/Step.lean ====
section
/-! DEFINITION. One step of the machine (30_encoding.md R79). -/

namespace Sys2Proof.Machine

/-- Fetch, decode and run the instruction at `pc`; an illegal opcode is recorded as the fault (60_exceptions.md R165). The
fetch gives every byte the opcode's length asks for, so the decoder rejects for an illegal opcode only
(`Sys2Proof.Machine.decode_fetch`). -/
def runInstruction (s : State) : Host.Outcome State Fault Refusal :=
  match decode (s.fetch s.pc).1 with
  | .ok (i, _) => exec i (s.fetch s.pc).2
  | .error _ => .next ((s.fetch s.pc).2.raiseDecodeError (s.busRead s.pc) s.pc)

/-- `Step(S, nmi_edge, irq_line)` (30_encoding.md R79): one whole instruction, one interrupt entry, or the illegal-opcode
fault (00_scope.md R18). A state with a fault recorded has no step (10_state.md R37). -/
def step (s : State) : Host.Outcome State Fault Refusal :=
  match s.event with
  | .stopped f => .fault f
  | .nmi => .next s.latchInputs.nmiEntry
  | .irq => .next s.latchInputs.irqEntry
  | .instruction => runInstruction s.latchInputs

/-- The state with a table word stored where the next step fetches, made ready so that that step runs it:
notes/assumptions/11.md. -/
def State.withFetchWord (s : State) (nbits w : Nat) : State := s.readyToFetch.placeWord nbits w

end Sys2Proof.Machine
end

