-- ==== Sys2Proof/Machine/Disassembler.lean ====
section
/-! DEFINITION. The text of an instruction and the disassembly pass (30_encoding.md R98 to R100): host software over the
same decoder, fetch unit and resolver. Text is a list of characters here; `String.ofList` makes a string of it. -/

namespace Sys2Proof.Machine

/-- An upper-case hexadecimal digit. -/
def hexDigit (n : Nat) : Char :=
  if n < 10 then Char.ofNat (48 + n) else Char.ofNat (55 + n)

/-- A byte as two hexadecimal digits (30_encoding.md R98). -/
def hexByte (v : Byte) : List Char := [hexDigit (v.toNat / 16), hexDigit (v.toNat % 16)]

/-- A word as four hexadecimal digits (30_encoding.md R98). -/
def hexWord (w : Addr) : List Char := hexByte (hiByte w) ++ hexByte (loByte w)

/-- The mnemonic in upper case (30_encoding.md R99). -/
def mnemonicText : Mnemonic → List Char
  | .adc => ['A', 'D', 'C']
  | .and => ['A', 'N', 'D']
  | .asl => ['A', 'S', 'L']
  | .bcc => ['B', 'C', 'C']
  | .bcs => ['B', 'C', 'S']
  | .beq => ['B', 'E', 'Q']
  | .bit => ['B', 'I', 'T']
  | .bmi => ['B', 'M', 'I']
  | .bne => ['B', 'N', 'E']
  | .bpl => ['B', 'P', 'L']
  | .brk => ['B', 'R', 'K']
  | .bvc => ['B', 'V', 'C']
  | .bvs => ['B', 'V', 'S']
  | .clc => ['C', 'L', 'C']
  | .cld => ['C', 'L', 'D']
  | .cli => ['C', 'L', 'I']
  | .clv => ['C', 'L', 'V']
  | .cmp => ['C', 'M', 'P']
  | .cpx => ['C', 'P', 'X']
  | .cpy => ['C', 'P', 'Y']
  | .dec => ['D', 'E', 'C']
  | .dex => ['D', 'E', 'X']
  | .dey => ['D', 'E', 'Y']
  | .eor => ['E', 'O', 'R']
  | .inc => ['I', 'N', 'C']
  | .inx => ['I', 'N', 'X']
  | .iny => ['I', 'N', 'Y']
  | .jmp => ['J', 'M', 'P']
  | .jsr => ['J', 'S', 'R']
  | .lda => ['L', 'D', 'A']
  | .ldx => ['L', 'D', 'X']
  | .ldy => ['L', 'D', 'Y']
  | .lsr => ['L', 'S', 'R']
  | .nop => ['N', 'O', 'P']
  | .ora => ['O', 'R', 'A']
  | .pha => ['P', 'H', 'A']
  | .php => ['P', 'H', 'P']
  | .pla => ['P', 'L', 'A']
  | .plp => ['P', 'L', 'P']
  | .rol => ['R', 'O', 'L']
  | .ror => ['R', 'O', 'R']
  | .rti => ['R', 'T', 'I']
  | .rts => ['R', 'T', 'S']
  | .sbc => ['S', 'B', 'C']
  | .sec => ['S', 'E', 'C']
  | .sed => ['S', 'E', 'D']
  | .sei => ['S', 'E', 'I']
  | .sta => ['S', 'T', 'A']
  | .stx => ['S', 'T', 'X']
  | .sty => ['S', 'T', 'Y']
  | .tax => ['T', 'A', 'X']
  | .tay => ['T', 'A', 'Y']
  | .tsx => ['T', 'S', 'X']
  | .txa => ['T', 'X', 'A']
  | .txs => ['T', 'X', 'S']
  | .tya => ['T', 'Y', 'A']

/-- The operand text of each mode (30_encoding.md R98), empty for IMP; REL shows the target the resolver gives. -/
def operandText (s : State) : Operand → List Char
  | .imp => []
  | .acc => ['A']
  | .imm v => '#' :: '$' :: hexByte v
  | .mem (.zp z) => '$' :: hexByte z
  | .mem (.zpx z) => '$' :: hexByte z ++ [',', 'X']
  | .mem (.zpy z) => '$' :: hexByte z ++ [',', 'Y']
  | .mem (.abs a) => '$' :: hexWord a
  | .mem (.absx a) => '$' :: hexWord a ++ [',', 'X']
  | .mem (.absy a) => '$' :: hexWord a ++ [',', 'Y']
  | .ind p => '(' :: '$' :: hexWord p ++ [')']
  | .mem (.izx z) => '(' :: '$' :: hexByte z ++ [',', 'X', ')']
  | .mem (.izy z) => '(' :: '$' :: hexByte z ++ [')', ',', 'Y']
  | .rel d => '$' :: hexWord ((s.resolve (.rel d)).ea.getD 0)

/-- A line's text: the mnemonic, then one space and the operand text when the mode has one (30_encoding.md R99). The
state's `pc` is the instruction's address. -/
def lineText (s : State) (i : Instr) : List Char :=
  match operandText s i.operand with
  | [] => mnemonicText i.mnemonic
  | o => mnemonicText i.mnemonic ++ ' ' :: o

/-- A disassembled line (30_encoding.md R99). -/
structure Line where
  addr : Addr
  bytes : List Byte
  text : List Char
  deriving DecidableEq, Repr

/-- What a disassembly pass gives: its lines, the `DecodeError` that ended it if one did, and the state after its reads,
which differs in the count of draws only. -/
structure Listing where
  lines : List Line
  error : Option Fault
  after : State
  deriving DecidableEq, Repr

/-- Disassemble from address `a` until the next address reaches `hi`, in at most `fuel` lines (30_encoding.md R100). That
`hi` itself lies outside the window is DEDUCED: notes/assumptions/14.md. That the next address is compared with `hi` before it
wraps, and wraps only where it is fetched from, is a DESIGN CHOICE: notes/assumptions/18.md. -/
def State.disassembleFrom (s : State) (a hi : Nat) : Nat → Listing
  | 0 => ⟨[], none, s⟩
  | fuel + 1 =>
    if hi ≤ a then ⟨[], none, s⟩
    else
      let pc0 := BitVec.ofNat 16 a
      let f := s.fetch pc0
      match decode f.1 with
      | .error _ => ⟨[], some (.decodeError (s.busRead pc0) pc0), f.2⟩
      | .ok (i, _) =>
        let rest := State.disassembleFrom f.2 (a + f.1.length) hi fuel
        { rest with lines := ⟨pc0, f.1, lineText (s.setPC pc0) i⟩ :: rest.lines }

/-- The disassembly pass over the window from `lo` up to `hi` (30_encoding.md R100). -/
def State.disassemble (s : State) (lo hi : Nat) : Listing := s.disassembleFrom lo hi (hi - lo)

end Sys2Proof.Machine
end

