-- ==== Sys2Proof/Machine/Loader.lean ====
section
/-! DEFINITION. The cartridge load and the launch (70_reset_and_hazards.md R187 to R193): host software, modelled by its
effect on the state and its refusals (00_scope.md R13). -/

namespace Sys2Proof.Machine

/-- Why a load refuses an image (70_reset_and_hazards.md R191). -/
inductive LoadError where
  | ioError
  | truncatedHeader
  | unrecognizedFormat
  | unsupportedFormatVersion
  | unsupportedMapper (id : Byte)
  /-- `PRG_BANKS ∉ (1, 2)`, a refusal the spec adds without a name: notes/assumptions/13.md. -/
  | unsupportedBankCount (count : Byte)
  | truncatedProgramData
  deriving DecidableEq, Repr

/-- The header bytes the load reads (70_reset_and_hazards.md R189). -/
structure Header where
  prgBanks : Byte
  chrBanks : Byte
  flags6   : Byte
  flags7   : Byte
  deriving DecidableEq, Repr

/-- The magic of header bytes 0 to 3 (70_reset_and_hazards.md R189). -/
def headerMagic : List Byte := [0x4E, 0x45, 0x53, 0x1A]

/-- The header of an image of 16 bytes or more. -/
def headerOf (image : List Byte) : Header :=
  ⟨image.getD 4 0, image.getD 5 0, image.getD 6 0, image.getD 7 0⟩

/-- Whether the "newer" format is recognised (70_reset_and_hazards.md R189). -/
def newerFormat (h : Header) : Bool := (h.flags7 >>> 2) &&& 3 == 2

/-- `mapper_id` (70_reset_and_hazards.md R189). -/
def mapperId (h : Header) : Byte := (h.flags7 &&& 0xF0) ||| (h.flags6 >>> 4)

/-- Whether a 512-byte trainer follows the header (70_reset_and_hazards.md R189). -/
def hasTrainer (h : Header) : Bool := h.flags6.getLsbD 2

/-- The image offset of the program data (70_reset_and_hazards.md R189). -/
def programOffset (h : Header) : Nat := if hasTrainer h then 16 + 512 else 16

/-- The size of the character ROM, computed and not used (70_reset_and_hazards.md R189, R190). -/
def chrSize (h : Header) : Nat := h.chrBanks.toNat * 8192

/-- `PRG_BANKS` from header byte 4 (70_reset_and_hazards.md R190, R191). -/
def prgBanksOf (count : Byte) : Option PrgBanks :=
  if count = 1 then some .one else if count = 2 then some .two else none

/-- Copy bytes into the array at rising cells. -/
def copyBytes (m : Memory) (base : Nat) : List Byte → Memory
  | [] => m
  | v :: rest => copyBytes (m.write base v) (base + 1) rest

/-- The load's writes, for an image it accepts (70_reset_and_hazards.md R190, steps 3, 4, 6 and 7). -/
def State.storeImage (s : State) (h : Header) (banks : PrgBanks) (image : List Byte) : State :=
  let trainer := if hasTrainer h then (image.drop 16).take 512 else []
  let program := (image.drop (programOffset h)).take (prgBankCount banks * 16384)
  { s with
    mem := copyBytes (copyBytes s.mem 0x7000 trainer) 0x8000 program
    cfg := { s.cfg with prgBanks := banks, mapper := .mapper0 }
    pc := 0x8000 }

/-- `load(path)` (70_reset_and_hazards.md R190, R191); `none` is a file that cannot be read. An image with several
defects gets the first refusal below: notes/assumptions/12.md. -/
def State.load (s : State) (file : Option (List Byte)) : Except LoadError State :=
  match file with
  | none => .error .ioError
  | some image =>
    let h := headerOf image
    if image.length < 16 then .error .truncatedHeader
    else if image.take 4 ≠ headerMagic then .error .unrecognizedFormat
    else if newerFormat h then .error .unsupportedFormatVersion
    else if mapperId h ≠ 0 then .error (.unsupportedMapper (mapperId h))
    else
      match prgBanksOf h.prgBanks with
      | none => .error (.unsupportedBankCount h.prgBanks)
      | some banks =>
        if image.length < programOffset h + prgBankCount banks * 16384 then .error .truncatedProgramData
        else .ok (s.storeImage h banks image)

/-- A launch (70_reset_and_hazards.md R187, R192, R193): load the cartridge over the launch contents of memory, then
reset. The host's input sequence and the configuration stand in the state `s`; its registers do not matter. -/
def State.launch (s : State) (file : Option (List Byte)) : Except LoadError State :=
  match s.load file with
  | .error e => .error e
  | .ok loaded => .ok loaded.applyReset

end Sys2Proof.Machine
end

