-- ==== Sys2Proof/Machine/Run.lean ====
section
/-! DEFINITION. A run of steps and its end at a stop address (70_reset_and_hazards.md R194). -/

namespace Sys2Proof.Machine

/-- The state after a number of steps, where every one of them answers a next state. -/
def State.steps (s : State) : Nat → Option State
  | 0 => some s
  | n + 1 =>
    match step s with
    | .next t => State.steps t n
    | .fault _ => none
    | .refused _ => none

/-- Whether an address holds `JMP` to itself, `4C lo hi` (70_reset_and_hazards.md R194). -/
def State.holdsSelfJump (s : State) (stop : Addr) : Bool :=
  s.peek stop == some 0x4C && s.peek (stop + 1) == some (loByte stop) && s.peek (stop + 2) == some (hiByte stop)

/-- Whether the boundary is the end of a run at a stop address (70_reset_and_hazards.md R194): `PC` is the stop address,
which holds `JMP` to itself, and the coming step would run that instruction. That this last is what 'no interrupt is
pending' means is a DESIGN CHOICE: notes/assumptions/17.md. -/
def State.atStop (s : State) (stop : Addr) : Bool := s.pc == stop && s.event == .instruction && s.holdsSelfJump stop

/-- What has become of a run after a number of steps (70_reset_and_hazards.md R194). -/
inductive RunEnd where
  /-- The run ended in this state. -/
  | ended (s : State)
  /-- The run recorded a fault: it has failed and has no end. -/
  | failed (f : Fault)
  /-- A step of the run was refused. -/
  | refused (r : Refusal)
  /-- The run goes on from this state. -/
  | going (s : State)
  deriving DecidableEq, Repr

/-- What a boundary says of the run that reaches it. -/
def State.runEnd (s : State) (stop : Addr) : RunEnd :=
  match s.fault with
  | some f => .failed f
  | none => if s.atStop stop then .ended s else .going s

/-- Run to the first boundary that is the end of a run at `stop`, in at most so many steps (70_reset_and_hazards.md
R194). -/
def State.runTo (s : State) (stop : Addr) : Nat → RunEnd
  | 0 => s.runEnd stop
  | n + 1 =>
    match s.runEnd stop with
    | .going _ =>
      match step s with
      | .next t => State.runTo t stop n
      | .fault f => .failed f
      | .refused r => .refused r
    | e => e

end Sys2Proof.Machine
end

