-- ==== Sys2Proof/Safety.lean ====
section
/-! DEFINITION. What counts as a good state and a safe run, and the words the statements are written in. -/

namespace Sys2Proof.Safety

open Sys2Proof.Machine

/-! ### States and runs -/

/-- The invariant of the state: memory is in its canonical form and bit 5 of `P` holds the 1 it is hard-wired to
(10_state.md R26). -/
abbrev Inv (s : State) : Prop := Memory.wf s.mem = true ∧ s.p[5] = true

/-- No fault is recorded (10_state.md R37). -/
abbrev Running (s : State) : Prop := s.fault = none

/-- The coming step runs the instruction at `pc`: no fault recorded, no NMI pending or presented, no IRQ accepted
(60_exceptions.md R171). -/
abbrev RunsInstruction (s : State) : Prop :=
  s.fault = none ∧ s.nmiPending = false ∧ s.input.nmiEdge = false ∧ (s.input.irqLine = false ∨ s.flag .i = true)

/-- The stop address holds `JMP` to itself, `4C lo hi` (70_reset_and_hazards.md R194). -/
abbrev HoldsSelfJump (stop : Addr) (s : State) : Prop :=
  s.peek stop = some 0x4C ∧ s.peek (stop + 1) = some (loByte stop) ∧ s.peek (stop + 2) = some (hiByte stop)

/-- The boundary is the end of a run at a stop address, if the run reaches it (70_reset_and_hazards.md R194). That no
interrupt is pending is read as `RunsInstruction`: an asserted IRQ that I masks is not pending, and a presented NMI edge is.
DESIGN CHOICE: notes/assumptions/17.md. -/
abbrev AtStop (stop : Addr) (s : State) : Prop := s.pc = stop ∧ RunsInstruction s ∧ HoldsSelfJump stop s

/-! ### Frames -/

/-- The 8-bit registers other than `P`. -/
inductive Reg where
  | a | x | y | sp
  deriving DecidableEq, Repr

/-- The value of a register. -/
def regOf (s : State) : Reg → Byte
  | .a => s.a
  | .x => s.x
  | .y => s.y
  | .sp => s.sp

/-- Every register but those listed is as before. -/
def SameRegsBut (rs : List Reg) (s t : State) : Prop := ∀ r : Reg, r ∉ rs → regOf t r = regOf s r

/-- Every flag but those listed reads as before. -/
def SameFlagsBut (fs : List Flag) (s t : State) : Prop := ∀ f : Flag, f ∉ fs → t.flag f = s.flag f

/-- The configuration, the NMI latch, the fault record and the host's inputs are as before. -/
structure SameControl (s t : State) : Prop where
  cfg : t.cfg = s.cfg
  nmiPending : t.nmiPending = s.nmiPending
  fault : t.fault = s.fault
  inputs : t.inputs = s.inputs

/-- What is left unchanged beside `PC`, `CYC`, memory and the count of draws: every register but `rs`, every flag but
`fs`, and the control part of the state. -/
structure Frame (rs : List Reg) (fs : List Flag) (s t : State) : Prop where
  regs : SameRegsBut rs s t
  flags : SameFlagsBut fs s t
  control : SameControl s t

/-- Every address that names storage reads as before. -/
def SameMemory (s t : State) : Prop := ∀ a : Addr, t.peek a = s.peek a

/-- Every address reads as before but those that name the storage one of `eas` names. -/
def SameMemoryBut (eas : List Addr) (s t : State) : Prop :=
  ∀ a : Addr, (∀ ea ∈ eas, cell s.cfg a ≠ cell s.cfg ea) → t.peek a = s.peek a

/-- Whether a write to an address changes what it names: not in the picture-unit window (20_memory.md R48), and in the
cartridge region only where the mapper writes through (20_memory.md R52). -/
def storable (cfg : Cfg) (ea : Addr) : Bool :=
  (ea.toNat < 0x2000 || 0x4000 ≤ ea.toNat) && (ea.toNat < 0x8000 || cfg.mapper0Write == .writeThrough)

/-- One byte is stored at `ea`, as far as `ea` is storable: every address that names the storage `ea` names reads it
after, and every other address reads as before. -/
def Stores (ea : Addr) (v : Byte) (s t : State) : Prop :=
  SameMemoryBut [ea] s t ∧
    ∀ a : Addr, cell s.cfg a = cell s.cfg ea → t.peek a = if storable s.cfg ea then some v else s.peek a

/-- Z and N follow a result (10_state.md R35). -/
def FollowsNZ (r : Byte) (t : State) : Prop := (t.flag .z = true ↔ r = 0) ∧ t.flag .n = r.getLsbD 7

/-! ### What an instruction reads, and where it goes -/

/-- The operand value `M_op`, from what the resolver answers (30_encoding.md R96). -/
def operandByte (s : State) (o : Operand) : Byte :=
  match (s.resolve o).operandSrc with
  | .none => 0
  | .imm v => v
  | .acc => s.a
  | .mem => s.busRead ((s.resolve o).ea.getD 0)

/-- The effective address the resolver answers (30_encoding.md R82). -/
def effectiveAddr (s : State) (o : Operand) : Addr := (s.resolve o).ea.getD 0

/-- `next`: the address after the instruction (30_encoding.md R79). -/
def nextPC (i : Instr) (s : State) : Addr := s.pc + BitVec.ofNat 16 i.mode.length

/-- The condition of a branch (46_branch.md R133 to R140); false for every other mnemonic. -/
def branchTaken (m : Mnemonic) (s : State) : Bool :=
  match m with
  | .bcc => !s.flag .c
  | .bcs => s.flag .c
  | .beq => s.flag .z
  | .bne => !s.flag .z
  | .bmi => s.flag .n
  | .bpl => !s.flag .n
  | .bvc => !s.flag .v
  | .bvs => s.flag .v
  | _ => false

/-- The base cycles of a mnemonic in a mode, from the text of 70_reset_and_hazards.md R197 (not from the opcode table). -/
def baseCyclesOf (m : Mnemonic) (md : Mode) : Nat :=
  let isStore := m ∈ [.sta, .stx, .sty]
  let isRmw := m ∈ [.asl, .lsr, .rol, .ror, .inc, .dec]
  match md with
  | .imp =>
    if m ∈ [.pha, .php] then 3
    else if m ∈ [.pla, .plp] then 4
    else if m ∈ [.rts, .rti] then 6
    else if m = .brk then 7
    else 2
  | .acc => 2
  | .imm => 2
  | .zp => if isRmw then 5 else 3
  | .zpx => if isRmw then 6 else 4
  | .zpy => 4
  | .abs => if m = .jmp then 3 else if m = .jsr then 6 else if isRmw then 6 else 4
  | .absx => if isRmw then 7 else if isStore then 5 else 4
  | .absy => if isStore then 5 else 4
  | .ind => 5
  | .izx => 6
  | .izy => if isStore then 6 else 5
  | .rel => 2

/-- Whether a page crossing costs a cycle: the read-class instructions in ABSX, ABSY and IZY (R197). -/
def pagePenaltyOf (m : Mnemonic) (md : Mode) : Bool :=
  m ∈ [.lda, .ldx, .ldy, .adc, .sbc, .and, .ora, .eor, .cmp] && md ∈ [.absx, .absy, .izy]

/-- The cycle cost of an instruction: its base, the page penalty, and a taken branch's cycles (R197). -/
def cyclesOf (i : Instr) (s : State) : Nat :=
  let crossed := (s.resolve i.operand).pageCrossed.toNat
  baseCyclesOf i.mnemonic i.mode + (if pagePenaltyOf i.mnemonic i.mode then crossed else 0) +
    (if branchTaken i.mnemonic s then 1 + crossed else 0)

/-- The instruction answers a next state, with its cycle cost in `CYC`. -/
def Completes (i : Instr) (s t : State) : Prop := exec i s = .next t ∧ t.cyc = cyclesOf i s

/-- The opcode bytes of a mnemonic, each with its mode, are those listed. -/
def EncodedBy (m : Mnemonic) (rows : List (Byte × Mode)) : Prop :=
  ∀ op : Byte, ((decodeOpcode op).bind fun e => if e.mnemonic = m then some e.mode else none) = rows.lookup op

/-- The 105 illegal opcode bytes (30_encoding.md R77). -/
def illegalOpcodes : List Byte :=
  [0x02, 0x03, 0x04, 0x07, 0x0B, 0x0C, 0x0F, 0x12, 0x13, 0x14, 0x17, 0x1A, 0x1B, 0x1C, 0x1F, 0x22, 0x23, 0x27, 0x2B,
   0x2F, 0x32, 0x33, 0x34, 0x37, 0x3A, 0x3B, 0x3C, 0x3F, 0x42, 0x43, 0x44, 0x47, 0x4B, 0x4F, 0x52, 0x53, 0x54, 0x57] ++
  [0x5A, 0x5B, 0x5C, 0x5F, 0x62, 0x63, 0x64, 0x67, 0x6B, 0x6F, 0x72, 0x73, 0x74, 0x77, 0x7A, 0x7B, 0x7C, 0x7F, 0x80,
   0x82, 0x83, 0x87, 0x89, 0x8B, 0x8F, 0x92, 0x93, 0x97, 0x9B, 0x9C, 0x9E, 0x9F, 0xA3, 0xA7, 0xAB, 0xAF, 0xB2, 0xB3] ++
  [0xB7, 0xBB, 0xBF, 0xC2, 0xC3, 0xC7, 0xCB, 0xCF, 0xD2, 0xD3, 0xD4, 0xD7, 0xDA, 0xDB, 0xDC, 0xDF, 0xE2, 0xE3, 0xE7,
   0xEB, 0xEF, 0xF2, 0xF3, 0xF4, 0xF7, 0xFA, 0xFB, 0xFC, 0xFF]

end Sys2Proof.Safety
end

