-- ==== Sys2Proof/Certificates/Slice0/Obligations.lean ====
section
/-! DEFINITION. The statements for the provers. -/

open Sys2Proof Sys2Proof.Machine Sys2Proof.Safety

/-! ### Encoding -/

/-- Every instruction decodes from its own bytes, whatever follows them, with every operand value
(30_encoding.md sections 1 and 2). -/
def Obligations.DecodeGivesBackEveryEncodedInstruction : Prop :=
  ∀ (i : Instr) (rest : List Byte), i.wf = true ∧ decode (encode i ++ rest) = .ok (i, rest)

/-- A byte list that decodes is the bytes of the instruction it gives, followed by what is left: every byte sequence has
one meaning (30_encoding.md sections 1 and 2). -/
def Obligations.DecodedBytesAreTheInstructionsOwn : Prop :=
  ∀ (bytes rest : List Byte) (i : Instr), decode bytes = .ok (i, rest) → bytes = encode i ++ rest

/-- The length of every addressing mode, and that decoding takes that many bytes (R73). -/
def Obligations.DecodingTakesTheModesLength : Prop :=
  (∀ p ∈ [(Mode.imp, 1), (.acc, 1), (.imm, 2), (.zp, 2), (.zpx, 2), (.zpy, 2), (.abs, 3), (.absx, 3), (.absy, 3),
      (.ind, 3), (.izx, 2), (.izy, 2), (.rel, 2)], p.1.length = p.2) ∧
    (∀ m : Mode, m.length ∈ [1, 2, 3]) ∧
    ∀ (bytes rest : List Byte) (i : Instr),
      decode bytes = .ok (i, rest) → bytes.length = i.mode.length + rest.length

/-- Instruction words written out from the spec's opcode map decode to what they stand for. -/
def Obligations.SpecWordsDecode : Prop :=
  decode [0xA9, 0x05] = .ok (.ldaImm 0x05, []) ∧
    decode [0xF0, 0x02] = .ok (.beq 0x02, []) ∧
    decode [0x8D, 0x00, 0x20] = .ok (.staAbs 0x2000, []) ∧
    decode [0x6C, 0xFF, 0x02] = .ok (.jmpInd 0x02FF, []) ∧
    decode [0x96, 0xF0] = .ok (.stxZpy 0xF0, []) ∧
    decode [0xBE, 0x00, 0x02] = .ok (.ldxAbsy 0x0200, []) ∧
    decode [0x0A, 0xB1] = .ok (.aslAcc, [0xB1]) ∧
    decode [0x02] = .error (.illegalOpcode 0x02)

/-! ### The step -/

/-- At a boundary that takes no interrupt, when the fetched bytes decode to an instruction, the step is that instruction
run in the state that has taken its host input and its fetch reads (section 3 of 30_encoding.md). The model's choices: that the
host's inputs stand in the state and a step takes the first (notes/assumptions/6.md and 7.md), and that a fetch read of the
picture-unit window advances a count of draws (notes/assumptions/4.md). -/
def Obligations.StepRunsTheDecodedInstruction : Prop :=
  ∀ (s : State) (i : Instr) (rest : List Byte), RunsInstruction s →
    decode (s.latchInputs.fetch s.pc).1 = .ok (i, rest) →
      step s = exec i (s.latchInputs.fetch s.pc).2

/-- When the bytes stored at the program counter are an instruction's, the step is that instruction run in the state whose
host input has been taken; nothing else is added around it (section 3 of 30_encoding.md). That the host's inputs stand in the
state and a step takes the first is the model's choice (notes/assumptions/6.md and 7.md). -/
def Obligations.StepRunsTheStoredInstruction : Prop :=
  ∀ (s : State) (i : Instr), RunsInstruction s →
    (∀ k (hk : k < (encode i).length), s.peek (s.pc + BitVec.ofNat 16 k) = some (encode i)[k]) →
      step s = exec i s.latchInputs ∧ s.latchInputs = { s with inputs := s.inputs.tail }

/-- The illegal opcode bytes are the 105 listed; fetching one records the fault and changes nothing else of the spec's
state, and no step follows (section 2 of 30_encoding.md, section 2 of 60_exceptions.md). The model's own part: that the
faulting step answers a next state and the one after it the fault (notes/assumptions/8.md), the host input it takes
(notes/assumptions/6.md, 7.md) and the count of draws (notes/assumptions/4.md). -/
def Obligations.IllegalOpcodeIsFatal : Prop :=
  (∀ op : Byte, decodeOpcode op = none ↔ op ∈ illegalOpcodes) ∧
    ∀ s : State, RunsInstruction s → s.busRead s.pc ∈ illegalOpcodes →
      ∃ t, step s = .next t ∧ t.fault = some (.decodeError (s.busRead s.pc) s.pc) ∧
        t = { s with fault := t.fault, inputs := s.inputs.tail, draws := (s.afterRead s.pc).draws } ∧
        step t = .fault (.decodeError (s.busRead s.pc) s.pc)

/-- A recorded fault disables every step, is never cleared, and no state with one is at the stop of a run; without one every
step answers a next state, and only an illegal opcode records a fault (section 6 of 10_state.md, section 3 of 30_encoding.md,
sections 2 and 7 of 60_exceptions.md, section 3 of 70_reset_and_hazards.md). That a step from a state with a fault answers
the fault is the model's choice (notes/assumptions/8.md). -/
def Obligations.OnlyARecordedFaultStops : Prop :=
  State.reset.fault = none ∧
    (∀ (s : State) (f : Fault), s.fault = some f → step s = .fault f ∧ ∀ stop : Addr, ¬AtStop stop s) ∧
    ∀ s : State, Running s → ∃ t, step s = .next t ∧
      (t.fault = none ∨
        (RunsInstruction s ∧ s.busRead s.pc ∈ illegalOpcodes ∧
          t.fault = some (.decodeError (s.busRead s.pc) s.pc)))

/-- Every instruction, in every state, answers a next state and leaves the configuration, the NMI latch, the fault record
and the host's inputs alone: no access faults, none traps, none is privileged. -/
def Obligations.EveryInstructionCompletes : Prop :=
  ∀ (i : Instr) (s : State), ∃ t, exec i s = .next t ∧ SameControl s t

/-- Every step leaves the configuration as it is and takes one host input. That both stand in the state is the model's choice
(notes/assumptions/1.md, 6.md, 7.md). -/
def Obligations.StepKeepsTheConfiguration : Prop :=
  ∀ s t : State, step s = .next t → t.cfg = s.cfg ∧ t.inputs = s.inputs.tail

/-- Every step keeps the invariant: memory stays in its canonical form and bit 5 of `P` stays 1. -/
def Obligations.StepKeepsTheInvariant : Prop :=
  ∀ s t : State, Inv s → step s = .next t → Inv t

/-- The machine right after reset has the values of R42 and meets the invariant. That memory lists nothing, that one bank is
configured and that the host presents nothing are the model's choices (notes/assumptions/2.md, 3.md, 6.md). -/
def Obligations.ResetStateMeetsTheInvariant : Prop :=
  State.reset.a = 0x00 ∧ State.reset.x = 0x00 ∧ State.reset.y = 0x00 ∧ State.reset.sp = 0xFF ∧ State.reset.p = 0x20 ∧
    State.reset.cyc = 8 ∧ State.reset.nmiPending = false ∧ State.reset.fault = none ∧
    State.reset = State.reset.applyReset ∧ Inv State.reset

/-- The program counter after an instruction that does not redirect control, and after a branch not taken, and after one
taken (30_encoding.md R81); JMP, JSR, RTS, RTI and BRK have statements of their own. -/
def Obligations.ProgramCounterAdvancesByTheLength : Prop :=
  ∀ (i : Instr) (s t : State), exec i s = .next t → i.mnemonic ∉ [.jmp, .jsr, .rts, .rti, .brk] →
    (branchTaken i.mnemonic s = false → t.pc.toNat = (s.pc.toNat + i.mode.length) % 65536) ∧
    (branchTaken i.mnemonic s = true → ∃ d, i.operand = .rel d ∧
      (t.pc.toNat : Int) = ((s.pc.toNat : Int) + i.mode.length + d.toInt) % 65536)

/-- Which instructions may change each flag (10_state.md R27 to R33, their "Written by" lists). -/
def Obligations.OnlyTheListedInstructionsChangeAFlag : Prop :=
  ∀ (i : Instr) (s t : State), exec i s = .next t →
    (t.flag .c ≠ s.flag .c → i.mnemonic ∈
      [.adc, .sbc, .asl, .lsr, .rol, .ror, .cmp, .cpx, .cpy, .clc, .sec, .plp, .rti]) ∧
    (t.flag .z ≠ s.flag .z → i.mnemonic ∈
      [.lda, .ldx, .ldy, .tax, .tay, .txa, .tya, .tsx, .pla, .and, .ora, .eor, .adc, .sbc, .asl, .lsr, .rol, .ror, .inc,
       .dec, .inx, .iny, .dex, .dey, .cmp, .cpx, .cpy, .bit, .plp, .rti]) ∧
    (t.flag .n ≠ s.flag .n → i.mnemonic ∈
      [.lda, .ldx, .ldy, .tax, .tay, .txa, .tya, .tsx, .pla, .and, .ora, .eor, .adc, .sbc, .asl, .lsr, .rol, .ror, .inc,
       .dec, .inx, .iny, .dex, .dey, .cmp, .cpx, .cpy, .bit, .plp, .rti]) ∧
    (t.flag .i ≠ s.flag .i → i.mnemonic ∈ [.sei, .cli, .brk, .plp, .rti]) ∧
    (t.flag .d ≠ s.flag .d → i.mnemonic ∈ [.sed, .cld, .plp, .rti]) ∧
    (t.flag .b ≠ s.flag .b → i.mnemonic ∈ [.brk, .plp, .rti]) ∧
    (t.flag .v ≠ s.flag .v → i.mnemonic ∈ [.adc, .sbc, .bit, .clv, .plp, .rti]) ∧
    t.flag .u = true

/-- Which instructions may change each register and memory (10_state.md R20 to R23, their "Written by" lists;
20_memory.md R64). -/
def Obligations.OnlyTheListedInstructionsChangeARegister : Prop :=
  ∀ (i : Instr) (s t : State), exec i s = .next t →
    (t.a ≠ s.a → i.mnemonic ∈ [.lda, .pla, .txa, .tya, .adc, .sbc, .and, .ora, .eor] ∨
      (i.mnemonic ∈ [.asl, .lsr, .rol, .ror] ∧ i.mode = .acc)) ∧
    (t.x ≠ s.x → i.mnemonic ∈ [.ldx, .tax, .tsx, .inx, .dex]) ∧
    (t.y ≠ s.y → i.mnemonic ∈ [.ldy, .tay, .iny, .dey]) ∧
    (t.sp ≠ s.sp → i.mnemonic ∈ [.pha, .php, .pla, .plp, .jsr, .rts, .rti, .brk, .txs]) ∧
    (t.mem ≠ s.mem → i.mnemonic ∈ [.sta, .stx, .sty, .inc, .dec, .pha, .php, .jsr, .brk] ∨
      (i.mnemonic ∈ [.asl, .lsr, .rol, .ror] ∧ i.mode ≠ .acc))

/-- The cycle cost of every instruction in every state and of the three entries (70_reset_and_hazards.md R197), and that the
rows of the opcode table say the same as the rule's text. -/
def Obligations.CyclesFollowTheTimingRule : Prop :=
  (∀ (i : Instr) (s t : State), exec i s = .next t → t.cyc = cyclesOf i s) ∧
    (∀ s : State, s.applyReset.cyc = 8 ∧ s.irqEntry.cyc = 7 ∧ s.nmiEntry.cyc = 8) ∧
    ∀ (op : Byte) (e : OpcodeEntry), decodeOpcode op = some e →
      e.baseCycles = baseCyclesOf e.mnemonic e.mode ∧ e.pagePenalty = pagePenaltyOf e.mnemonic e.mode

/-! ### Reset and interrupts -/

/-- The reset sequence (R186): the registers, and where `PC` comes from; memory is not written. -/
def Obligations.ResetSequence : Prop :=
  ∀ s : State,
    s.applyReset.a = 0x00 ∧ s.applyReset.x = 0x00 ∧ s.applyReset.y = 0x00 ∧ s.applyReset.sp = 0xFF ∧
    s.applyReset.p = 0x20 ∧ s.applyReset.cyc = 8 ∧ s.applyReset.nmiPending = false ∧ s.applyReset.fault = none ∧
    s.applyReset.mem = s.mem ∧ s.applyReset.cfg = s.cfg ∧
    (s.cfg.resetPcMode = .fixed8000 → s.applyReset.pc = 0x8000) ∧
    (s.cfg.resetPcMode = .vector → s.cfg.prgBanks = .one →
      s.applyReset.pc.toNat = (s.mem.read 0xBFFD).toNat * 256 + (s.mem.read 0xBFFC).toNat) ∧
    (s.cfg.resetPcMode = .vector → s.cfg.prgBanks = .two →
      s.applyReset.pc.toNat = (s.mem.read 0xFFFD).toNat * 256 + (s.mem.read 0xFFFC).toNat)

/-- IRQ entry (section 5 of 60_exceptions.md): taken when the line is asserted, I is clear and no NMI is pending or
presented. That the host's inputs stand in the state and the entry takes the first is the model's choice
(notes/assumptions/6.md and 7.md). -/
def Obligations.IrqEntry : Prop :=
  ∀ s : State, Memory.wf s.mem = true → Running s → s.nmiPending = false → s.input.nmiEdge = false →
    s.input.irqLine = true → s.flag .i = false →
      ∃ t, step s = .next t ∧
        t.peek (stackAddr s.sp) = some (hiByte s.pc) ∧
        t.peek (stackAddr (s.sp - 1)) = some (loByte s.pc) ∧
        t.peek (stackAddr (s.sp - 2)) = some (s.p ||| 0x20) ∧
        t.sp = s.sp - 3 ∧
        t.pc = wordOf (s.busRead 0xFFFF) (s.busRead 0xFFFE) ∧
        t.flag .b = true ∧ t.flag .i = true ∧ SameFlagsBut [.b, .i] s t ∧ SameRegsBut [.sp] s t ∧
        t.cyc = 7 ∧
        SameMemoryBut [stackAddr s.sp, stackAddr (s.sp - 1), stackAddr (s.sp - 2)] s t ∧
        t.cfg = s.cfg ∧ t.fault = none ∧ t.nmiPending = false ∧ t.inputs = s.inputs.tail

/-- NMI entry (section 5 of 60_exceptions.md): taken when an NMI is pending or its edge is presented, whatever I is; it does
not set I. That the host's inputs stand in the state and the entry takes the first is the model's choice
(notes/assumptions/6.md and 7.md). -/
def Obligations.NmiEntry : Prop :=
  ∀ s : State, Memory.wf s.mem = true → Running s → s.nmiPending = true ∨ s.input.nmiEdge = true →
      ∃ t, step s = .next t ∧
        t.peek (stackAddr s.sp) = some (hiByte s.pc) ∧
        t.peek (stackAddr (s.sp - 1)) = some (loByte s.pc) ∧
        t.peek (stackAddr (s.sp - 2)) = some (s.p ||| 0x20) ∧
        t.sp = s.sp - 3 ∧
        t.pc = wordOf (s.busRead 0xFFFB) (s.busRead 0xFFFA) ∧
        t.flag .b = true ∧ SameFlagsBut [.b] s t ∧ SameRegsBut [.sp] s t ∧
        t.nmiPending = false ∧ t.cyc = 8 ∧
        SameMemoryBut [stackAddr s.sp, stackAddr (s.sp - 1), stackAddr (s.sp - 2)] s t ∧
        t.cfg = s.cfg ∧ t.fault = none ∧ t.inputs = s.inputs.tail

/-- What a boundary takes (R171): a recorded fault first, then NMI, then IRQ if I is clear, then the instruction; and an
IRQ still asserted after an NMI entry that found I clear is taken at the next boundary. That the host's inputs stand in the
state and a step takes the first is the model's choice (notes/assumptions/6.md and 7.md). -/
def Obligations.EventPriority : Prop :=
  (∀ (s : State) (f : Fault), s.fault = some f → s.event = .stopped f) ∧
    (∀ s : State, Running s → (s.event = .nmi ↔ s.nmiPending = true ∨ s.input.nmiEdge = true)) ∧
    (∀ s : State, Running s → (s.event = .irq ↔
      s.nmiPending = false ∧ s.input.nmiEdge = false ∧ s.input.irqLine = true ∧ s.flag .i = false)) ∧
    (∀ s : State, s.event = .instruction ↔ RunsInstruction s) ∧
    ∀ s t : State, s.event = .nmi → step s = .next t → s.flag .i = false →
      t.input = ⟨false, true⟩ → t.event = .irq

/-- The interrupt inputs (R167, R168): NMI is an edge, latched until its entry clears it, not masked by I, and several edges
before one entry count as one; IRQ is a level, masked by I, and leaves no trace where it is not taken. That the host's inputs
stand in the state and a step takes the first is the model's choice (notes/assumptions/6.md and 7.md). -/
def Obligations.InterruptInputs : Prop :=
  (∀ s : State, s.latchInputs.nmiPending = (s.nmiPending || s.input.nmiEdge)) ∧
    (∀ s t : State, step s = .next t → t.nmiPending = false) ∧
    (∀ s : State, Running s → s.nmiPending = true ∨ s.input.nmiEdge = true → s.event = .nmi) ∧
    (∀ (s : State) (rest : HostSchedule) (irq : Bool), s.nmiPending = true →
      step { s with inputs := rest.cons ⟨true, irq⟩ } = step { s with inputs := rest.cons ⟨false, irq⟩ }) ∧
    (∀ (s : State) (rest : HostSchedule) (edge : Bool), s.flag .i = true →
      step { s with inputs := rest.cons ⟨edge, true⟩ } = step { s with inputs := rest.cons ⟨edge, false⟩ }) ∧
    ∀ s : State, s.event = .irq → s.input.irqLine = true ∧ s.flag .i = false

/-- Return from an interrupt resumes what it interrupted: RTI run at the state an IRQ or NMI entry leaves gives back `PC`,
`P` and `SP`, and A, X and Y are never touched (R177, section 6 of 60_exceptions.md). -/
def Obligations.ReturnFromInterruptResumes : Prop :=
  ∀ s t : State, Memory.wf s.mem = true → s.event = .irq ∨ s.event = .nmi → step s = .next t →
    ∃ u, exec .rti t = .next u ∧ u.pc = s.pc ∧ u.readP = s.readP ∧ SameRegsBut [] s u

/-- BRK and RTI: BRK run anywhere, then RTI, goes on at `pc0 + 2` with B set and every other flag and register as it was
before the BRK (R162, R177). -/
def Obligations.ReturnFromBreakSkipsThePadding : Prop :=
  ∀ s t : State, Memory.wf s.mem = true → exec .brk s = .next t →
    ∃ u, exec .rti t = .next u ∧ u.pc = s.pc + 2 ∧ u.flag .b = true ∧ SameFlagsBut [.b] s u ∧ SameRegsBut [] s u

/-! ### The bus -/

/-- The storage cell of every address, and what reading and writing it does (sections 2 and 3 of 20_memory.md): a write to the
picture-unit window, or to the cartridge where writes are ignored, changes no state; any other write changes the one byte of
its cell. A read of the window gives the next draw, of which nothing is said: that it advances a count of draws is the
model's choice (notes/assumptions/4.md). -/
def Obligations.BusRegions : Prop :=
  (∀ (cfg : Cfg) (a : Addr), a.toNat < 0x2000 → cell cfg a = some (a.toNat % 0x800)) ∧
    (∀ (cfg : Cfg) (a : Addr), 0x2000 ≤ a.toNat → a.toNat < 0x4000 → cell cfg a = none) ∧
    (∀ (cfg : Cfg) (a : Addr), 0x4000 ≤ a.toNat → a.toNat < 0x8000 → cell cfg a = some a.toNat) ∧
    (∀ (cfg : Cfg) (a : Addr), 0x8000 ≤ a.toNat → cell cfg a =
      some (0x8000 + (a.toNat - 0x8000) % ((match cfg.prgBanks with | .one => 1 | .two => 2) * 0x4000))) ∧
    (∀ (s : State) (a : Addr) (c : Nat), cell s.cfg a = some c →
      s.busRead a = s.mem.read c ∧ s.afterRead a = s ∧ s.peek a = some (s.mem.read c)) ∧
    (∀ (s : State) (a : Addr), cell s.cfg a = none →
      s.busRead a = Config.ppuRead s.draws ∧ s.afterRead a = { s with draws := s.draws + 1 } ∧ s.peek a = none) ∧
    (∀ (s : State) (a : Addr) (v : Byte), cell s.cfg a = none → s.busWrite a v = s) ∧
    (∀ (s : State) (a : Addr) (v : Byte), storable s.cfg a = false → s.busWrite a v = s) ∧
    (∀ (s : State) (a : Addr) (v : Byte) (c : Nat), cell s.cfg a = some c → storable s.cfg a = true →
      s.busWrite a v = { s with mem := s.mem.write c v }) ∧
    ∀ (s : State) (a : Addr) (v : Byte), Memory.wf s.mem = true →
      Stores a v s (s.busWrite a v) ∧ s.busWrite a v = { s with mem := (s.busWrite a v).mem }

/-- RAM is mirrored: a write at `a` is seen at every address of RAM with the same low 11 bits (R46). -/
def Obligations.RamMirrors : Prop :=
  ∀ (s : State) (a a' : Addr) (v : Byte), Memory.wf s.mem = true → a.toNat < 0x2000 → a'.toNat < 0x2000 →
    a.toNat % 0x800 = a'.toNat % 0x800 → (s.busWrite a v).busRead a' = v

/-- Mapper 0's reads: 16KB of program ROM is mirrored at $C000, 32KB maps one to one (R50, R51). -/
def Obligations.MapperReads : Prop :=
  ∀ (s : State) (a : Addr), 0x8000 ≤ a.toNat →
    s.busRead a = s.mapperRead a ∧ s.afterRead a = s ∧
    s.mapperRead a = s.mem.read
      (0x8000 + (a.toNat - 0x8000) % ((match s.cfg.prgBanks with | .one => 1 | .two => 2) * 0x4000)) ∧
    (s.cfg.prgBanks = .one → 0xC000 ≤ a.toNat → s.busRead a = s.busRead (a - 0x4000)) ∧
    (s.cfg.prgBanks = .two → s.busRead a = s.mem.read a.toNat)

/-- Mapper 0's writes: through to every mirror of the cell, or ignored (R52). -/
def Obligations.MapperWrites : Prop :=
  ∀ (s : State) (a : Addr) (v : Byte), Memory.wf s.mem = true → 0x8000 ≤ a.toNat →
    (s.cfg.mapper0Write = .ignore → s.busWrite a v = s) ∧
    (s.cfg.mapper0Write = .writeThrough →
      (∀ b : Addr, cell s.cfg b = cell s.cfg a → (s.busWrite a v).busRead b = v) ∧
      ∀ b : Addr, cell s.cfg b ≠ cell s.cfg a → (s.busWrite a v).peek b = s.peek b)

/-- Words are little-endian, and the high byte's address wraps (R61); away from the picture-unit window. -/
def Obligations.WordsAreLittleEndian : Prop :=
  ∀ (s : State) (a : Addr) (lo hi : Byte), s.peek a = some lo →
    s.peek (BitVec.ofNat 16 ((a.toNat + 1) % 65536)) = some hi → (s.read16 a).toNat = hi.toNat * 256 + lo.toNat

/-- Push and pull (R58, R59): where the byte goes, how SP wraps, and that a pull after a push gives the byte back. -/
def Obligations.PushAndPull : Prop :=
  ∀ (s : State) (v : Byte), Memory.wf s.mem = true →
    (s.push v).peek (BitVec.ofNat 16 (0x100 + s.sp.toNat)) = some v ∧
    (s.push v).sp.toNat = (s.sp.toNat + 255) % 256 ∧
    SameMemoryBut [BitVec.ofNat 16 (0x100 + s.sp.toNat)] s (s.push v) ∧
    s.push v = { s with mem := (s.push v).mem, sp := (s.push v).sp } ∧
    some s.pull.1 = s.peek (BitVec.ofNat 16 (0x100 + (s.sp.toNat + 1) % 256)) ∧
    s.pull.2 = { s with sp := s.pull.2.sp } ∧ s.pull.2.sp.toNat = (s.sp.toNat + 1) % 256 ∧
    (s.push v).pull.1 = v ∧ (s.push v).pull.2.sp = s.sp

/-- Canonical memories with the same contents are the same data, and every write keeps the canonical form. -/
def Obligations.CanonicalMemoriesAreEqualData : Prop :=
  (∀ m m' : Memory, m.wf = true → m'.wf = true → (∀ c, m.read c = m'.read c) → m = m') ∧
    ∀ (m : Memory) (c : Nat) (v : Byte), m.wf = true → c < 65536 →
      (m.write c v).wf = true ∧ (m.write c v).read c = v ∧ ∀ c', c' ≠ c → (m.write c v).read c' = m.read c'

/-! ### The address-mode resolver -/

/-- Implied, accumulator and immediate operands, and branch targets (R83, R84, R85, R95). -/
def Obligations.ResolveWithoutMemory : Prop :=
  ∀ s : State,
    s.resolve .imp = ⟨none, .none, false⟩ ∧ s.resolve .acc = ⟨none, .acc, false⟩ ∧
    (∀ v, s.resolve (.imm v) = ⟨none, .imm v, false⟩) ∧
    ∀ d : Byte, ∃ target, (s.resolve (.rel d)).ea = some target ∧
      (target.toNat : Int) = ((s.pc.toNat : Int) + 2 + d.toInt) % 65536 ∧
      (s.resolve (.rel d)).pageCrossed = decide ((s.pc.toNat + 2) % 65536 / 256 ≠ target.toNat / 256)

/-- Zero-page modes stay in the zero page (R86, R87, R88). -/
def Obligations.ResolveZeroPage : Prop :=
  ∀ (s : State) (z : Byte),
    s.resolve (.mem (.zp z)) = ⟨some (BitVec.ofNat 16 z.toNat), .mem, false⟩ ∧
    s.resolve (.mem (.zpx z)) = ⟨some (BitVec.ofNat 16 ((z.toNat + s.x.toNat) % 256)), .mem, false⟩ ∧
    s.resolve (.mem (.zpy z)) = ⟨some (BitVec.ofNat 16 ((z.toNat + s.y.toNat) % 256)), .mem, false⟩

/-- Absolute modes, with the page crossing (R89, R90, R91). -/
def Obligations.ResolveAbsolute : Prop :=
  ∀ (s : State) (base : Addr),
    s.resolve (.mem (.abs base)) = ⟨some base, .mem, false⟩ ∧
    s.resolve (.mem (.absx base)) = ⟨some (BitVec.ofNat 16 (base.toNat + s.x.toNat)), .mem,
      decide (base.toNat / 256 ≠ (base.toNat + s.x.toNat) % 65536 / 256)⟩ ∧
    s.resolve (.mem (.absy base)) = ⟨some (BitVec.ofNat 16 (base.toNat + s.y.toNat)), .mem,
      decide (base.toNat / 256 ≠ (base.toNat + s.y.toNat) % 65536 / 256)⟩

/-- Zero-page pointers, whose high byte wraps within the page (R93, R94). -/
def Obligations.ResolvePointers : Prop :=
  ∀ (s : State) (z lo hi : Byte),
    (s.peek (BitVec.ofNat 16 ((z.toNat + s.x.toNat) % 256)) = some lo →
      s.peek (BitVec.ofNat 16 ((z.toNat + s.x.toNat + 1) % 256)) = some hi →
        s.resolve (.mem (.izx z)) = ⟨some (BitVec.ofNat 16 (hi.toNat * 256 + lo.toNat)), .mem, false⟩) ∧
    (s.peek (BitVec.ofNat 16 z.toNat) = some lo → s.peek (BitVec.ofNat 16 ((z.toNat + 1) % 256)) = some hi →
        s.resolve (.mem (.izy z)) = ⟨some (BitVec.ofNat 16 (hi.toNat * 256 + lo.toNat + s.y.toNat)), .mem,
          decide (hi.toNat ≠ (hi.toNat * 256 + lo.toNat + s.y.toNat) % 65536 / 256)⟩)

/-! ### Load and store -/

/-- LDA, LDX and LDY in every mode (R101, R102, R103). -/
def Obligations.LoadsWriteTheirRegister : Prop :=
  EncodedBy .lda [(0xA9, .imm), (0xA5, .zp), (0xB5, .zpx), (0xAD, .abs), (0xBD, .absx), (0xB9, .absy), (0xA1, .izx),
      (0xB1, .izy)] ∧
    EncodedBy .ldx [(0xA2, .imm), (0xA6, .zp), (0xB6, .zpy), (0xAE, .abs), (0xBE, .absy)] ∧
    EncodedBy .ldy [(0xA0, .imm), (0xA4, .zp), (0xB4, .zpx), (0xAC, .abs), (0xBC, .absx)] ∧
    ∀ p ∈ [(Mnemonic.lda, Reg.a), (.ldx, .x), (.ldy, .y)], ∀ (i : Instr) (s : State), i.mnemonic = p.1 →
      ∃ t, Completes i s t ∧ regOf t p.2 = operandByte s i.operand ∧ FollowsNZ (operandByte s i.operand) t ∧
        Frame [p.2] [.z, .n] s t ∧ SameMemory s t ∧ t.pc = nextPC i s

/-- STA, STX and STY in every mode: one byte is stored at the effective address (R104, R105, R106). -/
def Obligations.StoresWriteOneByte : Prop :=
  EncodedBy .sta [(0x85, .zp), (0x95, .zpx), (0x8D, .abs), (0x9D, .absx), (0x99, .absy), (0x81, .izx), (0x91, .izy)] ∧
    EncodedBy .stx [(0x86, .zp), (0x96, .zpy), (0x8E, .abs)] ∧
    EncodedBy .sty [(0x84, .zp), (0x94, .zpx), (0x8C, .abs)] ∧
    ∀ p ∈ [(Mnemonic.sta, Reg.a), (.stx, .x), (.sty, .y)], ∀ (i : Instr) (s : State), i.mnemonic = p.1 →
      Memory.wf s.mem = true →
        ∃ t, Completes i s t ∧ Stores (effectiveAddr s i.operand) (regOf s p.2) s t ∧ Frame [] [] s t ∧
          t.draws = s.draws ∧ t.pc = nextPC i s

/-! ### Arithmetic -/

/-- ADC in every mode, with the carry of the 9-bit sum and the overflow of the signed one; D is not read (R109). -/
def Obligations.AdcAddsWithCarry : Prop :=
  EncodedBy .adc [(0x69, .imm), (0x65, .zp), (0x75, .zpx), (0x6D, .abs), (0x7D, .absx), (0x79, .absy), (0x61, .izx),
      (0x71, .izy)] ∧
    ∀ (i : Instr) (s : State), i.mnemonic = .adc →
      ∃ t, Completes i s t ∧
        t.a.toNat = (s.a.toNat + (operandByte s i.operand).toNat + (s.flag .c).toNat) % 256 ∧
        (t.flag .c = true ↔ s.a.toNat + (operandByte s i.operand).toNat + (s.flag .c).toNat > 255) ∧
        (t.flag .v = true ↔ ¬(-128 ≤ s.a.toInt + (operandByte s i.operand).toInt + (s.flag .c).toNat ∧
          s.a.toInt + (operandByte s i.operand).toInt + (s.flag .c).toNat ≤ 127)) ∧
        FollowsNZ t.a t ∧ Frame [.a] [.n, .v, .z, .c] s t ∧ SameMemory s t ∧ t.pc = nextPC i s

/-- SBC in every mode: A − M − (1 − C), with C clear on a borrow and the overflow of the signed difference (R110). -/
def Obligations.SbcSubtractsWithBorrow : Prop :=
  EncodedBy .sbc [(0xE9, .imm), (0xE5, .zp), (0xF5, .zpx), (0xED, .abs), (0xFD, .absx), (0xF9, .absy), (0xE1, .izx),
      (0xF1, .izy)] ∧
    ∀ (i : Instr) (s : State), i.mnemonic = .sbc →
      ∃ t, Completes i s t ∧
        (t.a.toNat : Int) =
          ((s.a.toNat : Int) - (operandByte s i.operand).toNat - (1 - (s.flag .c).toNat)) % 256 ∧
        (t.flag .c = true ↔
          0 ≤ (s.a.toNat : Int) - (operandByte s i.operand).toNat - (1 - (s.flag .c).toNat)) ∧
        (t.flag .v = true ↔ ¬(-128 ≤ s.a.toInt - (operandByte s i.operand).toInt - (1 - (s.flag .c).toNat) ∧
          s.a.toInt - (operandByte s i.operand).toInt - (1 - (s.flag .c).toNat) ≤ 127)) ∧
        FollowsNZ t.a t ∧ Frame [.a] [.n, .v, .z, .c] s t ∧ SameMemory s t ∧ t.pc = nextPC i s

/-- The ALU adder (R108): the 9-bit sum, and V set exactly when the operands have one sign and the result the other. -/
def Obligations.AdderOverflowIsTheSignRule : Prop :=
  ∀ (a b : Byte) (cin : Bool),
    (add8 a b cin).r.toNat = (a.toNat + b.toNat + cin.toNat) % 256 ∧
    ((add8 a b cin).c = true ↔ a.toNat + b.toNat + cin.toNat > 255) ∧
    (add8 a b cin).v = (a.msb == b.msb && (add8 a b cin).r.msb != a.msb) ∧
    ((add8 a b cin).v = true ↔ ¬(-128 ≤ a.toInt + b.toInt + cin.toNat ∧ a.toInt + b.toInt + cin.toNat ≤ 127))

/-! ### Logic -/

/-- AND, ORA and EOR in every mode, bit by bit (R112, R113, R114). -/
def Obligations.LogicIsBitwise : Prop :=
  EncodedBy .and [(0x29, .imm), (0x25, .zp), (0x35, .zpx), (0x2D, .abs), (0x3D, .absx), (0x39, .absy), (0x21, .izx),
      (0x31, .izy)] ∧
    EncodedBy .ora [(0x09, .imm), (0x05, .zp), (0x15, .zpx), (0x0D, .abs), (0x1D, .absx), (0x19, .absy), (0x01, .izx),
      (0x11, .izy)] ∧
    EncodedBy .eor [(0x49, .imm), (0x45, .zp), (0x55, .zpx), (0x4D, .abs), (0x5D, .absx), (0x59, .absy), (0x41, .izx),
      (0x51, .izy)] ∧
    ∀ (i : Instr) (s : State), i.mnemonic ∈ [.and, .ora, .eor] →
      ∃ t, Completes i s t ∧
        (∀ k < 8, t.a.getLsbD k =
          match i.mnemonic with
          | .and => s.a.getLsbD k && (operandByte s i.operand).getLsbD k
          | .ora => s.a.getLsbD k || (operandByte s i.operand).getLsbD k
          | _ => s.a.getLsbD k ^^ (operandByte s i.operand).getLsbD k) ∧
        FollowsNZ t.a t ∧ Frame [.a] [.n, .z] s t ∧ SameMemory s t ∧ t.pc = nextPC i s

/-- BIT: N and V from the operand, Z from the AND, A not written (R115). -/
def Obligations.BitTestsItsOperand : Prop :=
  EncodedBy .bit [(0x24, .zp), (0x2C, .abs)] ∧
    ∀ (i : Instr) (s : State), i.mnemonic = .bit →
      ∃ t, Completes i s t ∧
        (t.flag .z = true ↔ ∀ k < 8, ¬(s.a.getLsbD k = true ∧ (operandByte s i.operand).getLsbD k = true)) ∧
        t.flag .n = (operandByte s i.operand).getLsbD 7 ∧ t.flag .v = (operandByte s i.operand).getLsbD 6 ∧
        Frame [] [.n, .v, .z] s t ∧ SameMemory s t ∧ t.pc = nextPC i s

/-! ### Shifts and rotates -/

/-- The result a shift or rotate gives for a value and the carry, as a number (R116). -/
def shiftValue (m : Mnemonic) (v : Nat) (c : Bool) : Nat :=
  match m with
  | .asl => v * 2 % 256
  | .lsr => v / 2
  | .rol => (v * 2 + c.toNat) % 256
  | _ => c.toNat * 128 + v / 2

/-- The bit a shift or rotate moves out (R116). -/
def shiftCarry (m : Mnemonic) (v : Nat) : Bool :=
  match m with
  | .asl | .rol => decide (128 ≤ v)
  | _ => decide (v % 2 = 1)

/-- ASL, LSR, ROL and ROR: of the accumulator, and of memory, where the byte at the effective address is read once and the
result written back to it (R117, R118, R119, R120). -/
def Obligations.ShiftsAndRotates : Prop :=
  EncodedBy .asl [(0x0A, .acc), (0x06, .zp), (0x16, .zpx), (0x0E, .abs), (0x1E, .absx)] ∧
    EncodedBy .lsr [(0x4A, .acc), (0x46, .zp), (0x56, .zpx), (0x4E, .abs), (0x5E, .absx)] ∧
    EncodedBy .rol [(0x2A, .acc), (0x26, .zp), (0x36, .zpx), (0x2E, .abs), (0x3E, .absx)] ∧
    EncodedBy .ror [(0x6A, .acc), (0x66, .zp), (0x76, .zpx), (0x6E, .abs), (0x7E, .absx)] ∧
    ∀ (i : Instr) (s : State), i.mnemonic ∈ [.asl, .lsr, .rol, .ror] →
      (i.mode = .acc →
        ∃ t, Completes i s t ∧ t.a.toNat = shiftValue i.mnemonic s.a.toNat (s.flag .c) ∧
          t.flag .c = shiftCarry i.mnemonic s.a.toNat ∧ FollowsNZ t.a t ∧
          Frame [.a] [.n, .z, .c] s t ∧ SameMemory s t ∧ t.pc = nextPC i s) ∧
      (i.mode ≠ .acc → Memory.wf s.mem = true →
        ∃ t res, Completes i s t ∧
          res.toNat = shiftValue i.mnemonic (operandByte s i.operand).toNat (s.flag .c) ∧
          Stores (effectiveAddr s i.operand) res s t ∧
          t.flag .c = shiftCarry i.mnemonic (operandByte s i.operand).toNat ∧ FollowsNZ res t ∧
          Frame [] [.n, .z, .c] s t ∧ t.pc = nextPC i s)

/-! ### Comparisons -/

/-- CMP, CPX and CPY in every mode: the unsigned order, equality and the sign of the difference; no register is written
(R122, R123, R124). -/
def Obligations.ComparesSetTheOrder : Prop :=
  EncodedBy .cmp [(0xC9, .imm), (0xC5, .zp), (0xD5, .zpx), (0xCD, .abs), (0xDD, .absx), (0xD9, .absy), (0xC1, .izx),
      (0xD1, .izy)] ∧
    EncodedBy .cpx [(0xE0, .imm), (0xE4, .zp), (0xEC, .abs)] ∧
    EncodedBy .cpy [(0xC0, .imm), (0xC4, .zp), (0xCC, .abs)] ∧
    ∀ p ∈ [(Mnemonic.cmp, Reg.a), (.cpx, .x), (.cpy, .y)], ∀ (i : Instr) (s : State), i.mnemonic = p.1 →
      ∃ t, Completes i s t ∧
        (t.flag .c = true ↔ (operandByte s i.operand).toNat ≤ (regOf s p.2).toNat) ∧
        (t.flag .z = true ↔ regOf s p.2 = operandByte s i.operand) ∧
        (t.flag .n = true ↔ 128 ≤ ((regOf s p.2).toNat + 256 - (operandByte s i.operand).toNat) % 256) ∧
        Frame [] [.n, .z, .c] s t ∧ SameMemory s t ∧ t.pc = nextPC i s

/-! ### Increments and decrements -/

/-- INC and DEC of memory in every mode (R126, R127). -/
def Obligations.IncrementsOfMemory : Prop :=
  EncodedBy .inc [(0xE6, .zp), (0xF6, .zpx), (0xEE, .abs), (0xFE, .absx)] ∧
    EncodedBy .dec [(0xC6, .zp), (0xD6, .zpx), (0xCE, .abs), (0xDE, .absx)] ∧
    ∀ p ∈ [(Mnemonic.inc, 1), (.dec, 255)], ∀ (i : Instr) (s : State), i.mnemonic = p.1 → Memory.wf s.mem = true →
      ∃ t res, Completes i s t ∧ res.toNat = ((operandByte s i.operand).toNat + p.2) % 256 ∧
        Stores (effectiveAddr s i.operand) res s t ∧ FollowsNZ res t ∧ Frame [] [.n, .z] s t ∧ t.pc = nextPC i s

/-- INX, INY, DEX and DEY (R128, R129, R130, R131). -/
def Obligations.IncrementsOfIndexRegisters : Prop :=
  EncodedBy .inx [(0xE8, .imp)] ∧ EncodedBy .iny [(0xC8, .imp)] ∧ EncodedBy .dex [(0xCA, .imp)] ∧
    EncodedBy .dey [(0x88, .imp)] ∧
    ∀ p ∈ [(Instr.inx, Reg.x, 1), (.iny, .y, 1), (.dex, .x, 255), (.dey, .y, 255)], ∀ s : State,
      ∃ t, Completes p.1 s t ∧ (regOf t p.2.1).toNat = ((regOf s p.2.1).toNat + p.2.2) % 256 ∧
        FollowsNZ (regOf t p.2.1) t ∧ Frame [p.2.1] [.n, .z] s t ∧ SameMemory s t ∧ t.pc = s.pc + 1

/-! ### Branches, jumps, calls and returns -/

/-- The eight branches: each on its condition, to `next` plus the signed displacement; no flag and no memory is written
(R132 to R140). -/
def Obligations.BranchesFollowTheirCondition : Prop :=
  EncodedBy .bcc [(0x90, .rel)] ∧ EncodedBy .bcs [(0xB0, .rel)] ∧ EncodedBy .beq [(0xF0, .rel)] ∧
    EncodedBy .bmi [(0x30, .rel)] ∧ EncodedBy .bne [(0xD0, .rel)] ∧ EncodedBy .bpl [(0x10, .rel)] ∧
    EncodedBy .bvc [(0x50, .rel)] ∧ EncodedBy .bvs [(0x70, .rel)] ∧
    ∀ (s : State) (d : Byte) (i : Instr) (cond : Bool),
      (i, cond) ∈ [(.bcc d, !s.flag .c), (.bcs d, s.flag .c), (.beq d, s.flag .z), (.bmi d, s.flag .n),
        (.bne d, !s.flag .z), (.bpl d, !s.flag .n), (.bvc d, !s.flag .v), (.bvs d, s.flag .v)] →
      ∃ t, Completes i s t ∧
        (t.pc.toNat : Int) = ((s.pc.toNat : Int) + 2 + (if cond then d.toInt else 0)) % 65536 ∧
        Frame [] [] s t ∧ SameMemory s t ∧ t.draws = s.draws

/-- JMP, absolute and indirect, with the page-wrap quirk where it is configured (R141). -/
def Obligations.JumpGoesToItsTarget : Prop :=
  EncodedBy .jmp [(0x4C, .abs), (0x6C, .ind)] ∧
    (∀ (s : State) (addr : Addr), ∃ t, Completes (.jmpAbs addr) s t ∧ t.pc = addr ∧
      Frame [] [] s t ∧ SameMemory s t) ∧
    (∀ (s : State) (ptr : Addr), ∃ t, Completes (.jmpInd ptr) s t ∧ Frame [] [] s t ∧ SameMemory s t ∧
      some t.pc = (s.resolve (.ind ptr)).ea) ∧
    ∀ (s t : State) (ptr : Addr) (lo hi : Byte), exec (.jmpInd ptr) s = .next t → s.peek ptr = some lo →
      s.peek (if s.cfg.jmpIndPageWrap then BitVec.ofNat 16 (ptr.toNat / 256 * 256 + (ptr.toNat + 1) % 256)
        else BitVec.ofNat 16 ((ptr.toNat + 1) % 65536)) = some hi →
        t.pc.toNat = hi.toNat * 256 + lo.toNat

/-- JSR: the address of its last byte is pushed, high byte then low, and control goes to the operand (R142). -/
def Obligations.JsrPushesItsLastByteAddress : Prop :=
  EncodedBy .jsr [(0x20, .abs)] ∧
    ∀ (s : State) (addr : Addr), Memory.wf s.mem = true →
      ∃ t, Completes (.jsr addr) s t ∧
        (∃ hi lo, t.peek (stackAddr s.sp) = some hi ∧ t.peek (stackAddr (s.sp - 1)) = some lo ∧
          hi.toNat * 256 + lo.toNat = (s.pc.toNat + 2) % 65536) ∧
        t.sp = s.sp - 2 ∧ t.pc = addr ∧ Frame [.sp] [] s t ∧
        SameMemoryBut [stackAddr s.sp, stackAddr (s.sp - 1)] s t

/-- RTS: the return address is pulled, low byte then high, and 1 is added (R143). -/
def Obligations.RtsReturnsPastTheCall : Prop :=
  EncodedBy .rts [(0x60, .imp)] ∧
    ∀ s : State, ∃ t lo hi, Completes .rts s t ∧
      s.peek (stackAddr (s.sp + 1)) = some lo ∧ s.peek (stackAddr (s.sp + 2)) = some hi ∧
      t.pc.toNat = (hi.toNat * 256 + lo.toNat + 1) % 65536 ∧ t.sp = s.sp + 2 ∧ Frame [.sp] [] s t ∧ SameMemory s t

/-- RTI: `P` is pulled with U forced to 1, then the return address, low byte then high, with nothing added (R144). -/
def Obligations.RtiRestoresStatusAndAddress : Prop :=
  EncodedBy .rti [(0x40, .imp)] ∧
    ∀ s : State, ∃ t p lo hi, Completes .rti s t ∧
      s.peek (stackAddr (s.sp + 1)) = some p ∧ s.peek (stackAddr (s.sp + 2)) = some lo ∧
      s.peek (stackAddr (s.sp + 3)) = some hi ∧ t.p = p ||| 0x20 ∧
      t.pc.toNat = hi.toNat * 256 + lo.toNat ∧ t.sp = s.sp + 3 ∧ SameRegsBut [.sp] s t ∧ SameControl s t ∧
      SameMemory s t

/-- A call and its return: JSR, then RTS with the stack as JSR left it, goes on after the call with every register and flag
as before (section 47, R142 and R143 together). -/
def Obligations.ReturnFromCallResumes : Prop :=
  ∀ (s t : State) (addr : Addr), Memory.wf s.mem = true → exec (.jsr addr) s = .next t →
    ∃ u, exec .rts t = .next u ∧ u.pc = nextPC (.jsr addr) s ∧ Frame [] [] s u

/-! ### The stack -/

/-- PHA pushes A; PHP pushes `P` with B and U set and does not change it (R145, R146). -/
def Obligations.PushInstructions : Prop :=
  EncodedBy .pha [(0x48, .imp)] ∧ EncodedBy .php [(0x08, .imp)] ∧
    ∀ s : State, Memory.wf s.mem = true → ∀ p ∈ [(Instr.pha, s.a), (.php, s.p ||| 0x30)],
      ∃ t, Completes p.1 s t ∧ t.peek (stackAddr s.sp) = some p.2 ∧ t.sp = s.sp - 1 ∧ t.p = s.p ∧
        Frame [.sp] [] s t ∧ SameMemoryBut [stackAddr s.sp] s t ∧ t.pc = s.pc + 1

/-- PLA pulls A and sets N and Z; PLP pulls the whole of `P` with U forced to 1 (R147, R148). -/
def Obligations.PullInstructions : Prop :=
  EncodedBy .pla [(0x68, .imp)] ∧ EncodedBy .plp [(0x28, .imp)] ∧
    ∀ s : State, ∃ v, s.peek (stackAddr (s.sp + 1)) = some v ∧
      (∃ t, Completes .pla s t ∧ t.a = v ∧ FollowsNZ v t ∧ t.sp = s.sp + 1 ∧ Frame [.a, .sp] [.n, .z] s t ∧
        SameMemory s t ∧ t.pc = s.pc + 1) ∧
      ∃ t, Completes .plp s t ∧ t.p = v ||| 0x20 ∧ t.sp = s.sp + 1 ∧ SameRegsBut [.sp] s t ∧ SameControl s t ∧
        SameMemory s t ∧ t.pc = s.pc + 1

/-! ### Flags, transfers, BRK and NOP -/

/-- CLC, SEC, CLI, SEI, CLD, SED and CLV write their one flag (R149 to R155). -/
def Obligations.FlagInstructionsWriteOneFlag : Prop :=
  EncodedBy .clc [(0x18, .imp)] ∧ EncodedBy .sec [(0x38, .imp)] ∧ EncodedBy .cli [(0x58, .imp)] ∧
    EncodedBy .sei [(0x78, .imp)] ∧ EncodedBy .cld [(0xD8, .imp)] ∧ EncodedBy .sed [(0xF8, .imp)] ∧
    EncodedBy .clv [(0xB8, .imp)] ∧
    ∀ p ∈ [(Instr.clc, Flag.c, false), (.sec, .c, true), (.cli, .i, false), (.sei, .i, true), (.cld, .d, false),
        (.sed, .d, true), (.clv, .v, false)], ∀ s : State,
      ∃ t, Completes p.1 s t ∧ t.flag p.2.1 = p.2.2 ∧ Frame [] [p.2.1] s t ∧ SameMemory s t ∧ t.pc = s.pc + 1

/-- TAX, TAY, TXA, TYA, TSX copy a register and set N and Z; TXS sets no flag (R156 to R161). -/
def Obligations.TransfersCopyARegister : Prop :=
  EncodedBy .tax [(0xAA, .imp)] ∧ EncodedBy .tay [(0xA8, .imp)] ∧ EncodedBy .txa [(0x8A, .imp)] ∧
    EncodedBy .tya [(0x98, .imp)] ∧ EncodedBy .tsx [(0xBA, .imp)] ∧ EncodedBy .txs [(0x9A, .imp)] ∧
    (∀ p ∈ [(Instr.tax, Reg.a, Reg.x), (.tay, .a, .y), (.txa, .x, .a), (.tya, .y, .a), (.tsx, .sp, .x)], ∀ s : State,
      ∃ t, Completes p.1 s t ∧ regOf t p.2.2 = regOf s p.2.1 ∧ FollowsNZ (regOf s p.2.1) t ∧
        Frame [p.2.2] [.n, .z] s t ∧ SameMemory s t ∧ t.pc = s.pc + 1) ∧
    ∀ s : State, ∃ t, Completes .txs s t ∧ t.sp = s.x ∧ Frame [.sp] [] s t ∧ t.p = s.p ∧ SameMemory s t ∧
      t.pc = s.pc + 1

/-- BRK: `pc0 + 2` and `P` with B set are pushed, B and I stay set, and control goes to the IRQ vector, whatever I is
(R162, R174). -/
def Obligations.BrkEntersTheBreakVector : Prop :=
  EncodedBy .brk [(0x00, .imp)] ∧
    ∀ s : State, Memory.wf s.mem = true →
      ∃ t, Completes .brk s t ∧
        (∃ hi lo, t.peek (stackAddr s.sp) = some hi ∧ t.peek (stackAddr (s.sp - 1)) = some lo ∧
          hi.toNat * 256 + lo.toNat = (s.pc.toNat + 2) % 65536) ∧
        t.peek (stackAddr (s.sp - 2)) = some (s.p ||| 0x30) ∧
        t.sp = s.sp - 3 ∧ t.flag .b = true ∧ t.flag .i = true ∧
        t.pc = wordOf (s.busRead 0xFFFF) (s.busRead 0xFFFE) ∧
        Frame [.sp] [.b, .i] s t ∧
        SameMemoryBut [stackAddr s.sp, stackAddr (s.sp - 1), stackAddr (s.sp - 2)] s t

/-- NOP only goes to the next instruction (R163). -/
def Obligations.NopChangesNothingElse : Prop :=
  EncodedBy .nop [(0xEA, .imp)] ∧
    ∀ s : State, exec .nop s = .next { s with pc := BitVec.ofNat 16 (s.pc.toNat + 1), cyc := 2 }

/-! ### Loading -/

/-- An accepted image: its program bytes, which follow the header and the trainer if there is one, are read at $8000 onward,
and those of a 16KB one at $C000 onward too; a trainer is read at $7000 onward; every other cell of memory, every register but `PC`, every parameter but those the header
sets, and the control state are as before (section 2 of 70_reset_and_hazards.md). -/
def Obligations.LoadedProgramIsReadAtItsAddresses : Prop :=
  ∀ (s t : State) (image : List Byte) (trainer : Bool) (start : Nat), Memory.wf s.mem = true →
    s.load (some image) = .ok t → trainer = (image.getD 6 0).getLsbD 2 → start = (if trainer then 528 else 16) →
      t.pc = 0x8000 ∧ Memory.wf t.mem = true ∧
      ((image.getD 4 0) = 1 ↔ t.cfg.prgBanks = .one) ∧
      (t.cfg.prgBanks = .one → ∀ k < 0x4000,
        t.busRead (BitVec.ofNat 16 (0x8000 + k)) = image.getD (start + k) 0 ∧
        t.busRead (BitVec.ofNat 16 (0xC000 + k)) = image.getD (start + k) 0) ∧
      (t.cfg.prgBanks = .two → ∀ k < 0x8000,
        t.busRead (BitVec.ofNat 16 (0x8000 + k)) = image.getD (start + k) 0) ∧
      (trainer = true → ∀ k < 512, t.busRead (BitVec.ofNat 16 (0x7000 + k)) = image.getD (16 + k) 0) ∧
      (∀ c, c < 0x8000 ∨ (t.cfg.prgBanks = .one ∧ 0xC000 ≤ c) ∨ 0x10000 ≤ c →
        (trainer = true → c < 0x7000 ∨ 0x7200 ≤ c) → t.mem.read c = s.mem.read c) ∧
      t = { s with mem := t.mem, cfg := { s.cfg with prgBanks := t.cfg.prgBanks, mapper := .mapper0 }, pc := 0x8000 }

/-- When a load is refused (70_reset_and_hazards.md R191), and that nothing else refuses one. The order of the checks and
the name of the bank-count refusal are the model's (notes/assumptions/12.md, 13.md), so only whether a load is refused is
stated. -/
def Obligations.LoadIsRefusedExactlyForTheListedDefects : Prop :=
  ∀ s : State, s.load none = .error .ioError ∧
    ∀ image : List Byte, (∃ t, s.load (some image) = .ok t) ↔
      16 ≤ image.length ∧ image.take 4 = [0x4E, 0x45, 0x53, 0x1A] ∧
        (image.getD 7 0).toNat / 4 % 4 ≠ 2 ∧
        (image.getD 7 0).toNat / 16 * 16 + (image.getD 6 0).toNat / 16 = 0 ∧
        ((image.getD 4 0) = 1 ∨ (image.getD 4 0) = 2) ∧
        16 + (if (image.getD 6 0).toNat / 4 % 2 = 1 then 512 else 0) + (image.getD 4 0).toNat * 16384 ≤ image.length

/-! ### The end of a run -/

/-- A run ends at the first boundary where `PC` is the stop address, which holds `JMP` to itself, no fault is recorded and no
interrupt is pending, and from there the machine steps in place while no interrupt is taken; a run that records a fault has
failed and has no end (section 3 of 70_reset_and_hazards.md). What counts as pending at a stop is the model's choice
(notes/assumptions/17.md), and so are the host's inputs in the state and that each step takes one (notes/assumptions/6.md,
7.md). -/
def Obligations.RunEndsAtTheFirstStop : Prop :=
  (∀ (s : State) (stop : Addr), s.atStop stop = true ↔ AtStop stop s) ∧
    (∀ (s t : State) (stop : Addr) (n : Nat), s.runTo stop n = .ended t ↔
      ∃ k ≤ n, s.steps k = some t ∧ AtStop stop t ∧ ∀ j < k, ∀ u, s.steps j = some u → ¬AtStop stop u) ∧
    (∀ (s : State) (stop : Addr) (n : Nat) (f : Fault), s.runTo stop n = .failed f ↔
      ∃ k ≤ n, ∃ u, s.steps k = some u ∧ u.fault = some f ∧ ∀ j < k, ∀ v, s.steps j = some v → ¬AtStop stop v) ∧
    (∀ (s : State) (stop : Addr) (n : Nat) (f : Fault), s.runTo stop n = .failed f →
      ∀ (m : Nat) (t : State), s.runTo stop m ≠ .ended t) ∧
    ∀ (s : State) (stop : Addr), AtStop stop s →
      step s = .next { s with inputs := s.inputs.tail, cyc := 3 } ∧
      (s.inputs.tail.head.nmiEdge = false → s.inputs.tail.head.irqLine = false ∨ s.flag .i = true →
        AtStop stop { s with inputs := s.inputs.tail, cyc := 3 })
end

