-- ==== Sys2Proof/Laws/Flags.lean ====
section
/-! SUPPORT. What the flag operations do, one flag at a time. -/

namespace Sys2Proof.Machine

/-- The bit number of a flag. -/
def Flag.index : Flag → Nat
  | .n => 7
  | .v => 6
  | .u => 5
  | .b => 4
  | .d => 3
  | .i => 2
  | .z => 1
  | .c => 0

/-- A flag reads as its bit; U reads as 1. -/
theorem getFlag_eq_bit (p : Byte) (f : Flag) : getFlag p f = (p.getLsbD f.index || decide (f = .u)) := by
  revert p
  cases f <;> decide +kernel

/-- U always reads as 1 (10_state.md R26). -/
@[simp] theorem getFlag_u (p : Byte) : getFlag p .u = true := by simp [getFlag_eq_bit]

/-- The bits of a status byte after `setFlag`. -/
theorem getLsbD_setFlag (p : Byte) (f : Flag) (b : Bool) (k : Nat) :
    (setFlag p f b).getLsbD k = if f ≠ .u ∧ k = f.index then b else p.getLsbD k := by
  rcases Nat.lt_or_ge k 8 with hk | hk
  · revert p
    interval_cases k <;> cases f <;> cases b <;> decide +kernel
  · have h1 : ¬ k = f.index := by cases f <;> simp [Flag.index] <;> omega
    rw [if_neg (by tauto), BitVec.getLsbD_of_ge _ _ hk, BitVec.getLsbD_of_ge _ _ hk]

theorem Flag.index_inj {f g : Flag} : f.index = g.index ↔ f = g := by
  cases f <;> cases g <;> decide

/-- `setFlag` sets its own flag, and U not at all (10_state.md R34). -/
@[simp] theorem getFlag_setFlag (p : Byte) (f g : Flag) (b : Bool) :
    getFlag (setFlag p f b) g = if g = f ∧ f ≠ .u then b else getFlag p g := by
  simp only [getFlag_eq_bit, getLsbD_setFlag, Flag.index_inj]
  by_cases hu : f = .u
  · simp [hu]
  · by_cases hg : g = f <;> simp [hu, hg]

@[simp] theorem getFlag_clearFlag (p : Byte) (f g : Flag) :
    getFlag (clearFlag p f) g = if g = f ∧ f ≠ .u then false else getFlag p g := getFlag_setFlag p f g false

/-- `setNZ` sets Z and N from the result and no other flag (10_state.md R35). -/
@[simp] theorem getFlag_setNZ (p r : Byte) (g : Flag) :
    getFlag (setNZ p r) g = if g = .n then r.msb else if g = .z then r == 0 else getFlag p g := by
  cases g <;> simp only [setNZ, getFlag_setFlag] <;> rfl

/-- A comparison sets C, Z and N and no other flag (44_compare.md R121). -/
@[simp] theorem getFlag_cmp8 (p r m : Byte) (g : Flag) :
    getFlag (cmp8 p r m) g =
      if g = .n then (r - m).msb else if g = .z then r == m
      else if g = .c then decide (r.toNat ≥ m.toNat) else getFlag p g := by
  cases g <;> simp only [cmp8, getFlag_setFlag] <;> rfl

/-- Bit 5 stays as it is under `setFlag`. -/
@[simp] theorem bit_five_setFlag (p : Byte) (f : Flag) (b : Bool) : (setFlag p f b)[5] = p[5] := by
  have h := getLsbD_setFlag p f b 5
  rw [if_neg (by cases f <;> decide)] at h
  exact h

@[simp] theorem bit_five_clearFlag (p : Byte) (f : Flag) : (clearFlag p f)[5] = p[5] := bit_five_setFlag p f false

@[simp] theorem bit_five_setNZ (p r : Byte) : (setNZ p r)[5] = p[5] := by simp [setNZ]

@[simp] theorem bit_five_cmp8 (p r m : Byte) : (cmp8 p r m)[5] = p[5] := by simp [cmp8]

@[simp] theorem bit_five_writeStatus (v : Byte) : (writeStatus v)[5] = true := by
  simp [writeStatus, Flag.mask]

@[simp] theorem bit_five_readStatus (p : Byte) : (readStatus p)[5] = true := bit_five_writeStatus p

/-- A flag of a status byte written whole is the byte's own bit; U reads as 1 (10_state.md R26). -/
@[simp] theorem getFlag_writeStatus (v : Byte) (f : Flag) : getFlag (writeStatus v) f = getFlag v f := by
  revert v
  cases f <;> decide +kernel

@[simp] theorem getFlag_readStatus (p : Byte) (f : Flag) : getFlag (readStatus p) f = getFlag p f :=
  getFlag_writeStatus p f

/-- Two status bytes with the same flags read the same. -/
theorem readStatus_ext {p q : Byte} (h : ∀ f : Flag, getFlag p f = getFlag q f) : readStatus p = readStatus q := by
  have hb : ∀ f : Flag, (p.getLsbD f.index || decide (f = .u)) = (q.getLsbD f.index || decide (f = .u)) := fun f => by
    rw [← getFlag_eq_bit, ← getFlag_eq_bit, h f]
  have h0 := hb .c
  have h1 := hb .z
  have h2 := hb .i
  have h3 := hb .d
  have h4 := hb .b
  have h6 := hb .v
  have h7 := hb .n
  simp [Flag.index] at h0 h1 h2 h3 h4 h6 h7
  apply BitVec.eq_of_getLsbD_eq
  intro k hk
  simp only [readStatus, BitVec.getLsbD_or]
  interval_cases k <;> simp_all [Flag.mask]

end Sys2Proof.Machine
end

