-- ==== Sys2Proof/Laws/Memory.lean ====
section
/-! SUPPORT. What reading and writing the array does, and that every write keeps its canonical form. -/

namespace Sys2Proof.Machine

theorem Memory.read_nil (c : Nat) : Memory.read [] c = Memory.unlisted := rfl

theorem Memory.wf_cons {k : Nat} {v : Byte} {m : Memory} :
    Memory.wf ((k, v) :: m) = true ↔
      k < 65536 ∧ v ≠ Memory.unlisted ∧ (∀ e ∈ m, k < e.1) ∧ Memory.wf m = true := by
  simp [Memory.wf, and_assoc]

/-- A cell below every listed one reads as unlisted. -/
theorem Memory.read_of_lt {m : Memory} {c : Nat} (h : ∀ e ∈ m, c < e.1) : m.read c = Memory.unlisted := by
  induction m with
  | nil => rfl
  | cons e m ih =>
    obtain ⟨k, v⟩ := e
    have hk : c < k := h (k, v) (by simp)
    rw [Memory.read, if_neg (Nat.ne_of_lt hk), ih (fun e he => h e (by simp [he]))]

/-- Writing one cell leaves every other as it was. -/
theorem Memory.read_write_other (m : Memory) {c c' : Nat} (v : Byte) (h : c' ≠ c) :
    (m.write c v).read c' = m.read c' := by
  induction m with
  | nil => by_cases hv : v = Memory.unlisted <;> simp [Memory.write, Memory.read, hv, h]
  | cons e m ih =>
    obtain ⟨k, w⟩ := e
    by_cases h1 : c < k
    · by_cases hv : v = Memory.unlisted <;> simp [Memory.write, Memory.read, h1, hv, h]
    · by_cases h2 : c = k
      · subst h2
        by_cases hv : v = Memory.unlisted <;> simp [Memory.write, Memory.read, hv, h]
      · simp [Memory.write, Memory.read, h1, h2, ih]

/-- In a canonical memory, reading the cell written gives the byte written. -/
theorem Memory.read_write_same {m : Memory} (hm : m.wf = true) (c : Nat) (v : Byte) :
    (m.write c v).read c = v := by
  induction m with
  | nil => by_cases hv : v = Memory.unlisted <;> simp [Memory.write, Memory.read, hv]
  | cons e m ih =>
    obtain ⟨k, w⟩ := e
    obtain ⟨-, -, hk, hwf⟩ := Memory.wf_cons.mp hm
    by_cases h1 : c < k
    · by_cases hv : v = Memory.unlisted
      · have hc : c ≠ k := by omega
        subst hv
        rw [Memory.write, if_pos h1, if_pos rfl, Memory.read, if_neg hc]
        exact Memory.read_of_lt (fun e he => Nat.lt_trans h1 (hk e he))
      · simp [Memory.write, Memory.read, h1, hv]
    · by_cases h2 : c = k
      · subst h2
        by_cases hv : v = Memory.unlisted
        · subst hv
          rw [Memory.write, if_neg h1, if_pos rfl, if_pos rfl]
          exact Memory.read_of_lt hk
        · simp [Memory.write, Memory.read, hv]
      · simp [Memory.write, Memory.read, h1, h2, ih hwf]

/-- A write lists no cell but the one written and those already listed. -/
theorem Memory.lt_of_mem_write {m : Memory} {c b : Nat} {v : Byte} (hc : b < c) (hm : ∀ e ∈ m, b < e.1) :
    ∀ e ∈ m.write c v, b < e.1 := by
  induction m with
  | nil => by_cases hv : v = Memory.unlisted <;> simp [Memory.write, hv, hc]
  | cons e m ih =>
    obtain ⟨k, w⟩ := e
    have hk : b < k := hm (k, w) (by simp)
    have hr : ∀ e ∈ m, b < e.1 := fun e he => hm e (by simp [he])
    unfold Memory.write
    split_ifs
    · exact hm
    · simpa using ⟨hc, hk, fun a b h => hr (a, b) h⟩
    · exact hr
    · simpa using ⟨hc, fun a b h => hr (a, b) h⟩
    · simpa using ⟨hk, fun a b h => ih hr (a, b) h⟩

/-- A write keeps the canonical form. -/
theorem Memory.write_wf {m : Memory} (hm : m.wf = true) {c : Nat} (hc : c < 65536) (v : Byte) :
    (m.write c v).wf = true := by
  induction m with
  | nil => by_cases hv : v = Memory.unlisted <;> simp [Memory.write, Memory.wf, hv, hc]
  | cons e m ih =>
    obtain ⟨k, w⟩ := e
    have hm' := hm
    obtain ⟨hk, hw, hlt, hwf⟩ := Memory.wf_cons.mp hm
    unfold Memory.write
    split_ifs with h1 hv h2 hv
    · exact hm'
    · refine Memory.wf_cons.mpr ⟨hc, hv, ?_, hm'⟩
      simp only [List.mem_cons, forall_eq_or_imp]
      exact ⟨h1, fun e he => Nat.lt_trans h1 (hlt e he)⟩
    · exact hwf
    · subst h2
      exact Memory.wf_cons.mpr ⟨hc, hv, hlt, hwf⟩
    · exact Memory.wf_cons.mpr ⟨hk, hw, Memory.lt_of_mem_write (by omega) hlt, ih hwf⟩

theorem Memory.wf_tail {e : Host.Cell} {m : Memory} (h : Memory.wf (e :: m) = true) : Memory.wf m = true :=
  (Memory.wf_cons.mp h).2.2.2

end Sys2Proof.Machine
end

