-- ==== Sys2Proof/Laws/State.lean ====
section
/-! SUPPORT. One lemma per field per update of `State`, so that no later proof unfolds a record update. -/

namespace Sys2Proof.Machine

@[simp] theorem State.setA_a (s : State) (v : Byte) : (s.setA v).a = v := rfl
@[simp] theorem State.setA_x (s : State) (v : Byte) : (s.setA v).x = s.x := rfl
@[simp] theorem State.setA_y (s : State) (v : Byte) : (s.setA v).y = s.y := rfl
@[simp] theorem State.setA_sp (s : State) (v : Byte) : (s.setA v).sp = s.sp := rfl
@[simp] theorem State.setA_p (s : State) (v : Byte) : (s.setA v).p = s.p := rfl
@[simp] theorem State.setA_pc (s : State) (v : Byte) : (s.setA v).pc = s.pc := rfl
@[simp] theorem State.setA_cyc (s : State) (v : Byte) : (s.setA v).cyc = s.cyc := rfl
@[simp] theorem State.setA_mem (s : State) (v : Byte) : (s.setA v).mem = s.mem := rfl
@[simp] theorem State.setA_nmiPending (s : State) (v : Byte) : (s.setA v).nmiPending = s.nmiPending := rfl
@[simp] theorem State.setA_fault (s : State) (v : Byte) : (s.setA v).fault = s.fault := rfl
@[simp] theorem State.setA_cfg (s : State) (v : Byte) : (s.setA v).cfg = s.cfg := rfl
@[simp] theorem State.setA_inputs (s : State) (v : Byte) : (s.setA v).inputs = s.inputs := rfl
@[simp] theorem State.setA_draws (s : State) (v : Byte) : (s.setA v).draws = s.draws := rfl

@[simp] theorem State.setX_a (s : State) (v : Byte) : (s.setX v).a = s.a := rfl
@[simp] theorem State.setX_x (s : State) (v : Byte) : (s.setX v).x = v := rfl
@[simp] theorem State.setX_y (s : State) (v : Byte) : (s.setX v).y = s.y := rfl
@[simp] theorem State.setX_sp (s : State) (v : Byte) : (s.setX v).sp = s.sp := rfl
@[simp] theorem State.setX_p (s : State) (v : Byte) : (s.setX v).p = s.p := rfl
@[simp] theorem State.setX_pc (s : State) (v : Byte) : (s.setX v).pc = s.pc := rfl
@[simp] theorem State.setX_cyc (s : State) (v : Byte) : (s.setX v).cyc = s.cyc := rfl
@[simp] theorem State.setX_mem (s : State) (v : Byte) : (s.setX v).mem = s.mem := rfl
@[simp] theorem State.setX_nmiPending (s : State) (v : Byte) : (s.setX v).nmiPending = s.nmiPending := rfl
@[simp] theorem State.setX_fault (s : State) (v : Byte) : (s.setX v).fault = s.fault := rfl
@[simp] theorem State.setX_cfg (s : State) (v : Byte) : (s.setX v).cfg = s.cfg := rfl
@[simp] theorem State.setX_inputs (s : State) (v : Byte) : (s.setX v).inputs = s.inputs := rfl
@[simp] theorem State.setX_draws (s : State) (v : Byte) : (s.setX v).draws = s.draws := rfl

@[simp] theorem State.setY_a (s : State) (v : Byte) : (s.setY v).a = s.a := rfl
@[simp] theorem State.setY_x (s : State) (v : Byte) : (s.setY v).x = s.x := rfl
@[simp] theorem State.setY_y (s : State) (v : Byte) : (s.setY v).y = v := rfl
@[simp] theorem State.setY_sp (s : State) (v : Byte) : (s.setY v).sp = s.sp := rfl
@[simp] theorem State.setY_p (s : State) (v : Byte) : (s.setY v).p = s.p := rfl
@[simp] theorem State.setY_pc (s : State) (v : Byte) : (s.setY v).pc = s.pc := rfl
@[simp] theorem State.setY_cyc (s : State) (v : Byte) : (s.setY v).cyc = s.cyc := rfl
@[simp] theorem State.setY_mem (s : State) (v : Byte) : (s.setY v).mem = s.mem := rfl
@[simp] theorem State.setY_nmiPending (s : State) (v : Byte) : (s.setY v).nmiPending = s.nmiPending := rfl
@[simp] theorem State.setY_fault (s : State) (v : Byte) : (s.setY v).fault = s.fault := rfl
@[simp] theorem State.setY_cfg (s : State) (v : Byte) : (s.setY v).cfg = s.cfg := rfl
@[simp] theorem State.setY_inputs (s : State) (v : Byte) : (s.setY v).inputs = s.inputs := rfl
@[simp] theorem State.setY_draws (s : State) (v : Byte) : (s.setY v).draws = s.draws := rfl

@[simp] theorem State.setSP_a (s : State) (v : Byte) : (s.setSP v).a = s.a := rfl
@[simp] theorem State.setSP_x (s : State) (v : Byte) : (s.setSP v).x = s.x := rfl
@[simp] theorem State.setSP_y (s : State) (v : Byte) : (s.setSP v).y = s.y := rfl
@[simp] theorem State.setSP_sp (s : State) (v : Byte) : (s.setSP v).sp = v := rfl
@[simp] theorem State.setSP_p (s : State) (v : Byte) : (s.setSP v).p = s.p := rfl
@[simp] theorem State.setSP_pc (s : State) (v : Byte) : (s.setSP v).pc = s.pc := rfl
@[simp] theorem State.setSP_cyc (s : State) (v : Byte) : (s.setSP v).cyc = s.cyc := rfl
@[simp] theorem State.setSP_mem (s : State) (v : Byte) : (s.setSP v).mem = s.mem := rfl
@[simp] theorem State.setSP_nmiPending (s : State) (v : Byte) : (s.setSP v).nmiPending = s.nmiPending := rfl
@[simp] theorem State.setSP_fault (s : State) (v : Byte) : (s.setSP v).fault = s.fault := rfl
@[simp] theorem State.setSP_cfg (s : State) (v : Byte) : (s.setSP v).cfg = s.cfg := rfl
@[simp] theorem State.setSP_inputs (s : State) (v : Byte) : (s.setSP v).inputs = s.inputs := rfl
@[simp] theorem State.setSP_draws (s : State) (v : Byte) : (s.setSP v).draws = s.draws := rfl

@[simp] theorem State.setP_a (s : State) (v : Byte) : (s.setP v).a = s.a := rfl
@[simp] theorem State.setP_x (s : State) (v : Byte) : (s.setP v).x = s.x := rfl
@[simp] theorem State.setP_y (s : State) (v : Byte) : (s.setP v).y = s.y := rfl
@[simp] theorem State.setP_sp (s : State) (v : Byte) : (s.setP v).sp = s.sp := rfl
@[simp] theorem State.setP_p (s : State) (v : Byte) : (s.setP v).p = v := rfl
@[simp] theorem State.setP_pc (s : State) (v : Byte) : (s.setP v).pc = s.pc := rfl
@[simp] theorem State.setP_cyc (s : State) (v : Byte) : (s.setP v).cyc = s.cyc := rfl
@[simp] theorem State.setP_mem (s : State) (v : Byte) : (s.setP v).mem = s.mem := rfl
@[simp] theorem State.setP_nmiPending (s : State) (v : Byte) : (s.setP v).nmiPending = s.nmiPending := rfl
@[simp] theorem State.setP_fault (s : State) (v : Byte) : (s.setP v).fault = s.fault := rfl
@[simp] theorem State.setP_cfg (s : State) (v : Byte) : (s.setP v).cfg = s.cfg := rfl
@[simp] theorem State.setP_inputs (s : State) (v : Byte) : (s.setP v).inputs = s.inputs := rfl
@[simp] theorem State.setP_draws (s : State) (v : Byte) : (s.setP v).draws = s.draws := rfl

@[simp] theorem State.setPC_a (s : State) (v : Addr) : (s.setPC v).a = s.a := rfl
@[simp] theorem State.setPC_x (s : State) (v : Addr) : (s.setPC v).x = s.x := rfl
@[simp] theorem State.setPC_y (s : State) (v : Addr) : (s.setPC v).y = s.y := rfl
@[simp] theorem State.setPC_sp (s : State) (v : Addr) : (s.setPC v).sp = s.sp := rfl
@[simp] theorem State.setPC_p (s : State) (v : Addr) : (s.setPC v).p = s.p := rfl
@[simp] theorem State.setPC_pc (s : State) (v : Addr) : (s.setPC v).pc = v := rfl
@[simp] theorem State.setPC_cyc (s : State) (v : Addr) : (s.setPC v).cyc = s.cyc := rfl
@[simp] theorem State.setPC_mem (s : State) (v : Addr) : (s.setPC v).mem = s.mem := rfl
@[simp] theorem State.setPC_nmiPending (s : State) (v : Addr) : (s.setPC v).nmiPending = s.nmiPending := rfl
@[simp] theorem State.setPC_fault (s : State) (v : Addr) : (s.setPC v).fault = s.fault := rfl
@[simp] theorem State.setPC_cfg (s : State) (v : Addr) : (s.setPC v).cfg = s.cfg := rfl
@[simp] theorem State.setPC_inputs (s : State) (v : Addr) : (s.setPC v).inputs = s.inputs := rfl
@[simp] theorem State.setPC_draws (s : State) (v : Addr) : (s.setPC v).draws = s.draws := rfl

@[simp] theorem State.setCyc_a (s : State) (v : Nat) : (s.setCyc v).a = s.a := rfl
@[simp] theorem State.setCyc_x (s : State) (v : Nat) : (s.setCyc v).x = s.x := rfl
@[simp] theorem State.setCyc_y (s : State) (v : Nat) : (s.setCyc v).y = s.y := rfl
@[simp] theorem State.setCyc_sp (s : State) (v : Nat) : (s.setCyc v).sp = s.sp := rfl
@[simp] theorem State.setCyc_p (s : State) (v : Nat) : (s.setCyc v).p = s.p := rfl
@[simp] theorem State.setCyc_pc (s : State) (v : Nat) : (s.setCyc v).pc = s.pc := rfl
@[simp] theorem State.setCyc_cyc (s : State) (v : Nat) : (s.setCyc v).cyc = v := rfl
@[simp] theorem State.setCyc_mem (s : State) (v : Nat) : (s.setCyc v).mem = s.mem := rfl
@[simp] theorem State.setCyc_nmiPending (s : State) (v : Nat) : (s.setCyc v).nmiPending = s.nmiPending := rfl
@[simp] theorem State.setCyc_fault (s : State) (v : Nat) : (s.setCyc v).fault = s.fault := rfl
@[simp] theorem State.setCyc_cfg (s : State) (v : Nat) : (s.setCyc v).cfg = s.cfg := rfl
@[simp] theorem State.setCyc_inputs (s : State) (v : Nat) : (s.setCyc v).inputs = s.inputs := rfl
@[simp] theorem State.setCyc_draws (s : State) (v : Nat) : (s.setCyc v).draws = s.draws := rfl

@[simp] theorem State.setMem_a (s : State) (v : Memory) : (s.setMem v).a = s.a := rfl
@[simp] theorem State.setMem_x (s : State) (v : Memory) : (s.setMem v).x = s.x := rfl
@[simp] theorem State.setMem_y (s : State) (v : Memory) : (s.setMem v).y = s.y := rfl
@[simp] theorem State.setMem_sp (s : State) (v : Memory) : (s.setMem v).sp = s.sp := rfl
@[simp] theorem State.setMem_p (s : State) (v : Memory) : (s.setMem v).p = s.p := rfl
@[simp] theorem State.setMem_pc (s : State) (v : Memory) : (s.setMem v).pc = s.pc := rfl
@[simp] theorem State.setMem_cyc (s : State) (v : Memory) : (s.setMem v).cyc = s.cyc := rfl
@[simp] theorem State.setMem_mem (s : State) (v : Memory) : (s.setMem v).mem = v := rfl
@[simp] theorem State.setMem_nmiPending (s : State) (v : Memory) : (s.setMem v).nmiPending = s.nmiPending := rfl
@[simp] theorem State.setMem_fault (s : State) (v : Memory) : (s.setMem v).fault = s.fault := rfl
@[simp] theorem State.setMem_cfg (s : State) (v : Memory) : (s.setMem v).cfg = s.cfg := rfl
@[simp] theorem State.setMem_inputs (s : State) (v : Memory) : (s.setMem v).inputs = s.inputs := rfl
@[simp] theorem State.setMem_draws (s : State) (v : Memory) : (s.setMem v).draws = s.draws := rfl

@[simp] theorem State.setNmiPending_a (s : State) (v : Bool) : (s.setNmiPending v).a = s.a := rfl
@[simp] theorem State.setNmiPending_x (s : State) (v : Bool) : (s.setNmiPending v).x = s.x := rfl
@[simp] theorem State.setNmiPending_y (s : State) (v : Bool) : (s.setNmiPending v).y = s.y := rfl
@[simp] theorem State.setNmiPending_sp (s : State) (v : Bool) : (s.setNmiPending v).sp = s.sp := rfl
@[simp] theorem State.setNmiPending_p (s : State) (v : Bool) : (s.setNmiPending v).p = s.p := rfl
@[simp] theorem State.setNmiPending_pc (s : State) (v : Bool) : (s.setNmiPending v).pc = s.pc := rfl
@[simp] theorem State.setNmiPending_cyc (s : State) (v : Bool) : (s.setNmiPending v).cyc = s.cyc := rfl
@[simp] theorem State.setNmiPending_mem (s : State) (v : Bool) : (s.setNmiPending v).mem = s.mem := rfl
@[simp] theorem State.setNmiPending_nmiPending (s : State) (v : Bool) : (s.setNmiPending v).nmiPending = v := rfl
@[simp] theorem State.setNmiPending_fault (s : State) (v : Bool) : (s.setNmiPending v).fault = s.fault := rfl
@[simp] theorem State.setNmiPending_cfg (s : State) (v : Bool) : (s.setNmiPending v).cfg = s.cfg := rfl
@[simp] theorem State.setNmiPending_inputs (s : State) (v : Bool) : (s.setNmiPending v).inputs = s.inputs := rfl
@[simp] theorem State.setNmiPending_draws (s : State) (v : Bool) : (s.setNmiPending v).draws = s.draws := rfl

@[simp] theorem State.setFault_a (s : State) (v : Option Fault) : (s.setFault v).a = s.a := rfl
@[simp] theorem State.setFault_x (s : State) (v : Option Fault) : (s.setFault v).x = s.x := rfl
@[simp] theorem State.setFault_y (s : State) (v : Option Fault) : (s.setFault v).y = s.y := rfl
@[simp] theorem State.setFault_sp (s : State) (v : Option Fault) : (s.setFault v).sp = s.sp := rfl
@[simp] theorem State.setFault_p (s : State) (v : Option Fault) : (s.setFault v).p = s.p := rfl
@[simp] theorem State.setFault_pc (s : State) (v : Option Fault) : (s.setFault v).pc = s.pc := rfl
@[simp] theorem State.setFault_cyc (s : State) (v : Option Fault) : (s.setFault v).cyc = s.cyc := rfl
@[simp] theorem State.setFault_mem (s : State) (v : Option Fault) : (s.setFault v).mem = s.mem := rfl
@[simp] theorem State.setFault_nmiPending (s : State) (v : Option Fault) : (s.setFault v).nmiPending = s.nmiPending := rfl
@[simp] theorem State.setFault_fault (s : State) (v : Option Fault) : (s.setFault v).fault = v := rfl
@[simp] theorem State.setFault_cfg (s : State) (v : Option Fault) : (s.setFault v).cfg = s.cfg := rfl
@[simp] theorem State.setFault_inputs (s : State) (v : Option Fault) : (s.setFault v).inputs = s.inputs := rfl
@[simp] theorem State.setFault_draws (s : State) (v : Option Fault) : (s.setFault v).draws = s.draws := rfl

@[simp] theorem State.setInputs_a (s : State) (v : HostSchedule) : (s.setInputs v).a = s.a := rfl
@[simp] theorem State.setInputs_x (s : State) (v : HostSchedule) : (s.setInputs v).x = s.x := rfl
@[simp] theorem State.setInputs_y (s : State) (v : HostSchedule) : (s.setInputs v).y = s.y := rfl
@[simp] theorem State.setInputs_sp (s : State) (v : HostSchedule) : (s.setInputs v).sp = s.sp := rfl
@[simp] theorem State.setInputs_p (s : State) (v : HostSchedule) : (s.setInputs v).p = s.p := rfl
@[simp] theorem State.setInputs_pc (s : State) (v : HostSchedule) : (s.setInputs v).pc = s.pc := rfl
@[simp] theorem State.setInputs_cyc (s : State) (v : HostSchedule) : (s.setInputs v).cyc = s.cyc := rfl
@[simp] theorem State.setInputs_mem (s : State) (v : HostSchedule) : (s.setInputs v).mem = s.mem := rfl
@[simp] theorem State.setInputs_nmiPending (s : State) (v : HostSchedule) : (s.setInputs v).nmiPending = s.nmiPending := rfl
@[simp] theorem State.setInputs_fault (s : State) (v : HostSchedule) : (s.setInputs v).fault = s.fault := rfl
@[simp] theorem State.setInputs_cfg (s : State) (v : HostSchedule) : (s.setInputs v).cfg = s.cfg := rfl
@[simp] theorem State.setInputs_inputs (s : State) (v : HostSchedule) : (s.setInputs v).inputs = v := rfl
@[simp] theorem State.setInputs_draws (s : State) (v : HostSchedule) : (s.setInputs v).draws = s.draws := rfl

@[simp] theorem State.setDraws_a (s : State) (v : Nat) : (s.setDraws v).a = s.a := rfl
@[simp] theorem State.setDraws_x (s : State) (v : Nat) : (s.setDraws v).x = s.x := rfl
@[simp] theorem State.setDraws_y (s : State) (v : Nat) : (s.setDraws v).y = s.y := rfl
@[simp] theorem State.setDraws_sp (s : State) (v : Nat) : (s.setDraws v).sp = s.sp := rfl
@[simp] theorem State.setDraws_p (s : State) (v : Nat) : (s.setDraws v).p = s.p := rfl
@[simp] theorem State.setDraws_pc (s : State) (v : Nat) : (s.setDraws v).pc = s.pc := rfl
@[simp] theorem State.setDraws_cyc (s : State) (v : Nat) : (s.setDraws v).cyc = s.cyc := rfl
@[simp] theorem State.setDraws_mem (s : State) (v : Nat) : (s.setDraws v).mem = s.mem := rfl
@[simp] theorem State.setDraws_nmiPending (s : State) (v : Nat) : (s.setDraws v).nmiPending = s.nmiPending := rfl
@[simp] theorem State.setDraws_fault (s : State) (v : Nat) : (s.setDraws v).fault = s.fault := rfl
@[simp] theorem State.setDraws_cfg (s : State) (v : Nat) : (s.setDraws v).cfg = s.cfg := rfl
@[simp] theorem State.setDraws_inputs (s : State) (v : Nat) : (s.setDraws v).inputs = s.inputs := rfl
@[simp] theorem State.setDraws_draws (s : State) (v : Nat) : (s.setDraws v).draws = v := rfl

@[simp] theorem State.setFlag_a (s : State) (f : Flag) (b : Bool) : (s.setFlag f b).a = s.a := rfl
@[simp] theorem State.setFlag_x (s : State) (f : Flag) (b : Bool) : (s.setFlag f b).x = s.x := rfl
@[simp] theorem State.setFlag_y (s : State) (f : Flag) (b : Bool) : (s.setFlag f b).y = s.y := rfl
@[simp] theorem State.setFlag_sp (s : State) (f : Flag) (b : Bool) : (s.setFlag f b).sp = s.sp := rfl
@[simp] theorem State.setFlag_p (s : State) (f : Flag) (b : Bool) : (s.setFlag f b).p = Machine.setFlag s.p f b := rfl
@[simp] theorem State.setFlag_pc (s : State) (f : Flag) (b : Bool) : (s.setFlag f b).pc = s.pc := rfl
@[simp] theorem State.setFlag_cyc (s : State) (f : Flag) (b : Bool) : (s.setFlag f b).cyc = s.cyc := rfl
@[simp] theorem State.setFlag_mem (s : State) (f : Flag) (b : Bool) : (s.setFlag f b).mem = s.mem := rfl
@[simp] theorem State.setFlag_nmiPending (s : State) (f : Flag) (b : Bool) : (s.setFlag f b).nmiPending = s.nmiPending := rfl
@[simp] theorem State.setFlag_fault (s : State) (f : Flag) (b : Bool) : (s.setFlag f b).fault = s.fault := rfl
@[simp] theorem State.setFlag_cfg (s : State) (f : Flag) (b : Bool) : (s.setFlag f b).cfg = s.cfg := rfl
@[simp] theorem State.setFlag_inputs (s : State) (f : Flag) (b : Bool) : (s.setFlag f b).inputs = s.inputs := rfl
@[simp] theorem State.setFlag_draws (s : State) (f : Flag) (b : Bool) : (s.setFlag f b).draws = s.draws := rfl

@[simp] theorem State.clearFlag_a (s : State) (f : Flag) : (s.clearFlag f).a = s.a := rfl
@[simp] theorem State.clearFlag_x (s : State) (f : Flag) : (s.clearFlag f).x = s.x := rfl
@[simp] theorem State.clearFlag_y (s : State) (f : Flag) : (s.clearFlag f).y = s.y := rfl
@[simp] theorem State.clearFlag_sp (s : State) (f : Flag) : (s.clearFlag f).sp = s.sp := rfl
@[simp] theorem State.clearFlag_p (s : State) (f : Flag) : (s.clearFlag f).p = Machine.clearFlag s.p f := rfl
@[simp] theorem State.clearFlag_pc (s : State) (f : Flag) : (s.clearFlag f).pc = s.pc := rfl
@[simp] theorem State.clearFlag_cyc (s : State) (f : Flag) : (s.clearFlag f).cyc = s.cyc := rfl
@[simp] theorem State.clearFlag_mem (s : State) (f : Flag) : (s.clearFlag f).mem = s.mem := rfl
@[simp] theorem State.clearFlag_nmiPending (s : State) (f : Flag) : (s.clearFlag f).nmiPending = s.nmiPending := rfl
@[simp] theorem State.clearFlag_fault (s : State) (f : Flag) : (s.clearFlag f).fault = s.fault := rfl
@[simp] theorem State.clearFlag_cfg (s : State) (f : Flag) : (s.clearFlag f).cfg = s.cfg := rfl
@[simp] theorem State.clearFlag_inputs (s : State) (f : Flag) : (s.clearFlag f).inputs = s.inputs := rfl
@[simp] theorem State.clearFlag_draws (s : State) (f : Flag) : (s.clearFlag f).draws = s.draws := rfl

@[simp] theorem State.setNZ_a (s : State) (r : Byte) : (s.setNZ r).a = s.a := rfl
@[simp] theorem State.setNZ_x (s : State) (r : Byte) : (s.setNZ r).x = s.x := rfl
@[simp] theorem State.setNZ_y (s : State) (r : Byte) : (s.setNZ r).y = s.y := rfl
@[simp] theorem State.setNZ_sp (s : State) (r : Byte) : (s.setNZ r).sp = s.sp := rfl
@[simp] theorem State.setNZ_p (s : State) (r : Byte) : (s.setNZ r).p = Machine.setNZ s.p r := rfl
@[simp] theorem State.setNZ_pc (s : State) (r : Byte) : (s.setNZ r).pc = s.pc := rfl
@[simp] theorem State.setNZ_cyc (s : State) (r : Byte) : (s.setNZ r).cyc = s.cyc := rfl
@[simp] theorem State.setNZ_mem (s : State) (r : Byte) : (s.setNZ r).mem = s.mem := rfl
@[simp] theorem State.setNZ_nmiPending (s : State) (r : Byte) : (s.setNZ r).nmiPending = s.nmiPending := rfl
@[simp] theorem State.setNZ_fault (s : State) (r : Byte) : (s.setNZ r).fault = s.fault := rfl
@[simp] theorem State.setNZ_cfg (s : State) (r : Byte) : (s.setNZ r).cfg = s.cfg := rfl
@[simp] theorem State.setNZ_inputs (s : State) (r : Byte) : (s.setNZ r).inputs = s.inputs := rfl
@[simp] theorem State.setNZ_draws (s : State) (r : Byte) : (s.setNZ r).draws = s.draws := rfl

@[simp] theorem State.writeP_a (s : State) (v : Byte) : (s.writeP v).a = s.a := rfl
@[simp] theorem State.writeP_x (s : State) (v : Byte) : (s.writeP v).x = s.x := rfl
@[simp] theorem State.writeP_y (s : State) (v : Byte) : (s.writeP v).y = s.y := rfl
@[simp] theorem State.writeP_sp (s : State) (v : Byte) : (s.writeP v).sp = s.sp := rfl
@[simp] theorem State.writeP_p (s : State) (v : Byte) : (s.writeP v).p = writeStatus v := rfl
@[simp] theorem State.writeP_pc (s : State) (v : Byte) : (s.writeP v).pc = s.pc := rfl
@[simp] theorem State.writeP_cyc (s : State) (v : Byte) : (s.writeP v).cyc = s.cyc := rfl
@[simp] theorem State.writeP_mem (s : State) (v : Byte) : (s.writeP v).mem = s.mem := rfl
@[simp] theorem State.writeP_nmiPending (s : State) (v : Byte) : (s.writeP v).nmiPending = s.nmiPending := rfl
@[simp] theorem State.writeP_fault (s : State) (v : Byte) : (s.writeP v).fault = s.fault := rfl
@[simp] theorem State.writeP_cfg (s : State) (v : Byte) : (s.writeP v).cfg = s.cfg := rfl
@[simp] theorem State.writeP_inputs (s : State) (v : Byte) : (s.writeP v).inputs = s.inputs := rfl
@[simp] theorem State.writeP_draws (s : State) (v : Byte) : (s.writeP v).draws = s.draws := rfl

@[simp] theorem State.advance_a (s : State) (n : Nat) : (s.advance n).a = s.a := rfl
@[simp] theorem State.advance_x (s : State) (n : Nat) : (s.advance n).x = s.x := rfl
@[simp] theorem State.advance_y (s : State) (n : Nat) : (s.advance n).y = s.y := rfl
@[simp] theorem State.advance_sp (s : State) (n : Nat) : (s.advance n).sp = s.sp := rfl
@[simp] theorem State.advance_p (s : State) (n : Nat) : (s.advance n).p = s.p := rfl
@[simp] theorem State.advance_pc (s : State) (n : Nat) : (s.advance n).pc = s.pc + BitVec.ofNat 16 n := rfl
@[simp] theorem State.advance_cyc (s : State) (n : Nat) : (s.advance n).cyc = s.cyc := rfl
@[simp] theorem State.advance_mem (s : State) (n : Nat) : (s.advance n).mem = s.mem := rfl
@[simp] theorem State.advance_nmiPending (s : State) (n : Nat) : (s.advance n).nmiPending = s.nmiPending := rfl
@[simp] theorem State.advance_fault (s : State) (n : Nat) : (s.advance n).fault = s.fault := rfl
@[simp] theorem State.advance_cfg (s : State) (n : Nat) : (s.advance n).cfg = s.cfg := rfl
@[simp] theorem State.advance_inputs (s : State) (n : Nat) : (s.advance n).inputs = s.inputs := rfl
@[simp] theorem State.advance_draws (s : State) (n : Nat) : (s.advance n).draws = s.draws := rfl

end Sys2Proof.Machine
end

