-- ==== Sys2Proof/Laws/Bus.lean ====
section
/-! SUPPORT. What the bus, the stack and the interrupt entry do: one lemma per operation, and its frame. -/

namespace Sys2Proof.Machine

/-! ### Cells -/

theorem mapperCell_lt (cfg : Cfg) (a : Addr) : mapperCell cfg a < 65536 := by
  unfold mapperCell
  cases cfg.mapper
  cases cfg.prgBanks <;> simp only [prgBankCount] <;> omega

theorem mapperCell_ge (cfg : Cfg) (a : Addr) : 0x8000 ≤ mapperCell cfg a := by
  unfold mapperCell
  cases cfg.mapper
  simp

/-- The cell of a cartridge address with 16KB of program ROM, mirrored (20_memory.md R51). -/
theorem mapperCell_one {cfg : Cfg} {a : Addr} (h : cfg.prgBanks = .one) :
    mapperCell cfg a = 0x8000 + (a.toNat - 0x8000) % 0x4000 := by
  unfold mapperCell
  cases cfg.mapper
  simp only [h, prgBankCount, Nat.one_mul]

/-- The cell of a cartridge address with 32KB of program ROM: its own (20_memory.md R51). -/
theorem mapperCell_two {cfg : Cfg} {a : Addr} (h : cfg.prgBanks = .two) (ha : 0x8000 ≤ a.toNat) :
    mapperCell cfg a = a.toNat := by
  have hlt := a.isLt
  unfold mapperCell
  cases cfg.mapper
  simp only [h, prgBankCount]
  omega

/-- Every cell lies in the array. -/
theorem cell_lt {cfg : Cfg} {a : Addr} {c : Nat} (h : cell cfg a = some c) : c < 65536 := by
  unfold cell at h
  split_ifs at h <;> rw [← Option.some.inj h]
  · exact BitVec.isLt _
  · exact a.isLt
  · exact mapperCell_lt cfg a

/-- A RAM address names the cell of its low 11 bits (20_memory.md R45, R46). -/
theorem cell_ram {cfg : Cfg} {a : Addr} (h : a.toNat < 0x2000) : cell cfg a = some (a.toNat % 0x800) := by
  rw [cell, if_pos h, BitVec.toNat_and, show (0x07FF : Addr).toNat = 2 ^ 11 - 1 from rfl,
    Nat.and_two_pow_sub_one_eq_mod]

/-- The picture-unit window names no cell (20_memory.md R45). -/
theorem cell_window {cfg : Cfg} {a : Addr} (h1 : 0x2000 ≤ a.toNat) (h2 : a.toNat < 0x4000) : cell cfg a = none := by
  rw [cell, if_neg (by omega), if_pos h2]

theorem cell_eq_none_iff {cfg : Cfg} {a : Addr} : cell cfg a = none ↔ 0x2000 ≤ a.toNat ∧ a.toNat < 0x4000 := by
  unfold cell
  split_ifs <;> simp <;> omega

/-- A plain address names itself (20_memory.md R45, R49). -/
theorem cell_plain {cfg : Cfg} {a : Addr} (h1 : 0x4000 ≤ a.toNat) (h2 : a.toNat < 0x8000) :
    cell cfg a = some a.toNat := by
  rw [cell, if_neg (by omega), if_neg (by omega), if_pos h2]

/-- A cartridge address names the cell mapper 0 gives it (20_memory.md R45, R51). -/
theorem cell_cartridge {cfg : Cfg} {a : Addr} (h : 0x8000 ≤ a.toNat) : cell cfg a = some (mapperCell cfg a) := by
  rw [cell, if_neg (by omega), if_neg (by omega), if_neg (by omega)]

theorem toNat_zeroPage (z : Byte) : (z.setWidth 16 : Addr).toNat = z.toNat := by
  have := z.isLt
  simp only [BitVec.toNat_setWidth]
  omega

theorem toNat_stackAddr (sp : Byte) : (stackAddr sp).toNat = 256 + sp.toNat := by
  have := sp.isLt
  rw [stackAddr, BitVec.toNat_add, BitVec.toNat_setWidth, show (0x0100 : Addr).toNat = 256 from rfl]
  omega

/-- A stack byte lies in RAM, at its own cell (20_memory.md R55). -/
@[simp] theorem cell_stackAddr (cfg : Cfg) (sp : Byte) : cell cfg (stackAddr sp) = some (256 + sp.toNat) := by
  have := sp.isLt
  rw [cell_ram (by rw [toNat_stackAddr]; omega), toNat_stackAddr, Nat.mod_eq_of_lt (by omega)]

/-! ### Reads -/

/-- A read of an address that names a cell gives that cell's byte. -/
theorem State.busRead_of_cell {s : State} {a : Addr} {c : Nat} (h : cell s.cfg a = some c) :
    s.busRead a = s.mem.read c := by
  unfold State.busRead
  rw [h]
  dsimp only
  split_ifs with h8
  · rfl
  · rw [cell_cartridge (by omega)] at h
    rw [← Option.some.inj h]
    rfl

/-- A read of the picture-unit window gives the next draw (20_memory.md R47). -/
theorem State.busRead_of_window {s : State} {a : Addr} (h : cell s.cfg a = none) :
    s.busRead a = Config.ppuRead s.draws := by
  unfold State.busRead
  rw [h]

theorem State.peek_eq_some_iff {s : State} {a : Addr} {v : Byte} :
    s.peek a = some v ↔ ∃ c, cell s.cfg a = some c ∧ s.mem.read c = v := by
  simp [State.peek]

/-- Where an address names storage, a bus read gives what is stored. -/
theorem State.busRead_of_peek {s : State} {a : Addr} {v : Byte} (h : s.peek a = some v) : s.busRead a = v := by
  obtain ⟨c, hc, hv⟩ := State.peek_eq_some_iff.mp h
  rw [State.busRead_of_cell hc, hv]

/-- What a bus read gives depends on the configuration, memory and the draws alone. -/
theorem State.busRead_congr {s t : State} (hc : t.cfg = s.cfg) (hm : t.mem = s.mem) (hd : t.draws = s.draws) (a : Addr) :
    t.busRead a = s.busRead a := by
  cases h : cell s.cfg a with
  | none => rw [State.busRead_of_window h, State.busRead_of_window (by rw [hc]; exact h), hd]
  | some c => rw [State.busRead_of_cell h, State.busRead_of_cell (by rw [hc]; exact h), hm]

theorem State.peek_congr {s t : State} (hc : t.cfg = s.cfg) (hm : t.mem = s.mem) (a : Addr) : t.peek a = s.peek a := by
  rw [State.peek, State.peek, hc, hm]

/-- A read of storage leaves the state as it is (20_memory.md R65). -/
theorem State.afterRead_of_cell {s : State} {a : Addr} {c : Nat} (h : cell s.cfg a = some c) : s.afterRead a = s := by
  unfold State.afterRead
  rw [h]

theorem State.afterRead_of_window {s : State} {a : Addr} (h : cell s.cfg a = none) :
    s.afterRead a = s.setDraws (s.draws + 1) := by
  unfold State.afterRead
  rw [h]

/-- A read changes the count of draws at most. -/
theorem State.afterRead_eq (s : State) (a : Addr) : ∃ n, s.afterRead a = s.setDraws n := by
  cases h : cell s.cfg a with
  | none => exact ⟨s.draws + 1, State.afterRead_of_window h⟩
  | some c => exact ⟨s.draws, State.afterRead_of_cell h⟩

@[simp] theorem State.afterRead_a (s : State) (a : Addr) : (s.afterRead a).a = s.a := by
  obtain ⟨n, h⟩ := s.afterRead_eq a; rw [h]; rfl
@[simp] theorem State.afterRead_x (s : State) (a : Addr) : (s.afterRead a).x = s.x := by
  obtain ⟨n, h⟩ := s.afterRead_eq a; rw [h]; rfl
@[simp] theorem State.afterRead_y (s : State) (a : Addr) : (s.afterRead a).y = s.y := by
  obtain ⟨n, h⟩ := s.afterRead_eq a; rw [h]; rfl
@[simp] theorem State.afterRead_sp (s : State) (a : Addr) : (s.afterRead a).sp = s.sp := by
  obtain ⟨n, h⟩ := s.afterRead_eq a; rw [h]; rfl
@[simp] theorem State.afterRead_p (s : State) (a : Addr) : (s.afterRead a).p = s.p := by
  obtain ⟨n, h⟩ := s.afterRead_eq a; rw [h]; rfl
@[simp] theorem State.afterRead_pc (s : State) (a : Addr) : (s.afterRead a).pc = s.pc := by
  obtain ⟨n, h⟩ := s.afterRead_eq a; rw [h]; rfl
@[simp] theorem State.afterRead_cyc (s : State) (a : Addr) : (s.afterRead a).cyc = s.cyc := by
  obtain ⟨n, h⟩ := s.afterRead_eq a; rw [h]; rfl
@[simp] theorem State.afterRead_mem (s : State) (a : Addr) : (s.afterRead a).mem = s.mem := by
  obtain ⟨n, h⟩ := s.afterRead_eq a; rw [h]; rfl
@[simp] theorem State.afterRead_nmiPending (s : State) (a : Addr) : (s.afterRead a).nmiPending = s.nmiPending := by
  obtain ⟨n, h⟩ := s.afterRead_eq a; rw [h]; rfl
@[simp] theorem State.afterRead_fault (s : State) (a : Addr) : (s.afterRead a).fault = s.fault := by
  obtain ⟨n, h⟩ := s.afterRead_eq a; rw [h]; rfl
@[simp] theorem State.afterRead_cfg (s : State) (a : Addr) : (s.afterRead a).cfg = s.cfg := by
  obtain ⟨n, h⟩ := s.afterRead_eq a; rw [h]; rfl
@[simp] theorem State.afterRead_inputs (s : State) (a : Addr) : (s.afterRead a).inputs = s.inputs := by
  obtain ⟨n, h⟩ := s.afterRead_eq a; rw [h]; rfl

@[simp] theorem State.peek_afterRead (s : State) (a b : Addr) : (s.afterRead a).peek b = s.peek b :=
  State.peek_congr (by simp) (by simp) b

/-! ### Reads after an update that touches neither memory nor the draws -/

@[simp] theorem State.busRead_setA (s : State) (v : Byte) (a : Addr) : (s.setA v).busRead a = s.busRead a := rfl
@[simp] theorem State.peek_setA (s : State) (v : Byte) (a : Addr) : (s.setA v).peek a = s.peek a := rfl
@[simp] theorem State.busRead_setX (s : State) (v : Byte) (a : Addr) : (s.setX v).busRead a = s.busRead a := rfl
@[simp] theorem State.peek_setX (s : State) (v : Byte) (a : Addr) : (s.setX v).peek a = s.peek a := rfl
@[simp] theorem State.busRead_setY (s : State) (v : Byte) (a : Addr) : (s.setY v).busRead a = s.busRead a := rfl
@[simp] theorem State.peek_setY (s : State) (v : Byte) (a : Addr) : (s.setY v).peek a = s.peek a := rfl
@[simp] theorem State.busRead_setSP (s : State) (v : Byte) (a : Addr) : (s.setSP v).busRead a = s.busRead a := rfl
@[simp] theorem State.peek_setSP (s : State) (v : Byte) (a : Addr) : (s.setSP v).peek a = s.peek a := rfl
@[simp] theorem State.busRead_setP (s : State) (v : Byte) (a : Addr) : (s.setP v).busRead a = s.busRead a := rfl
@[simp] theorem State.peek_setP (s : State) (v : Byte) (a : Addr) : (s.setP v).peek a = s.peek a := rfl
@[simp] theorem State.busRead_setPC (s : State) (v : Addr) (a : Addr) : (s.setPC v).busRead a = s.busRead a := rfl
@[simp] theorem State.peek_setPC (s : State) (v : Addr) (a : Addr) : (s.setPC v).peek a = s.peek a := rfl
@[simp] theorem State.busRead_setCyc (s : State) (v : Nat) (a : Addr) : (s.setCyc v).busRead a = s.busRead a := rfl
@[simp] theorem State.peek_setCyc (s : State) (v : Nat) (a : Addr) : (s.setCyc v).peek a = s.peek a := rfl
@[simp] theorem State.busRead_setNmiPending (s : State) (v : Bool) (a : Addr) : (s.setNmiPending v).busRead a = s.busRead a := rfl
@[simp] theorem State.peek_setNmiPending (s : State) (v : Bool) (a : Addr) : (s.setNmiPending v).peek a = s.peek a := rfl
@[simp] theorem State.busRead_setFault (s : State) (v : Option Fault) (a : Addr) : (s.setFault v).busRead a = s.busRead a := rfl
@[simp] theorem State.peek_setFault (s : State) (v : Option Fault) (a : Addr) : (s.setFault v).peek a = s.peek a := rfl
@[simp] theorem State.busRead_setInputs (s : State) (v : HostSchedule) (a : Addr) : (s.setInputs v).busRead a = s.busRead a := rfl
@[simp] theorem State.peek_setInputs (s : State) (v : HostSchedule) (a : Addr) : (s.setInputs v).peek a = s.peek a := rfl
@[simp] theorem State.busRead_advance (s : State) (n : Nat) (a : Addr) : (s.advance n).busRead a = s.busRead a := rfl
@[simp] theorem State.peek_advance (s : State) (n : Nat) (a : Addr) : (s.advance n).peek a = s.peek a := rfl
@[simp] theorem State.busRead_setFlag (s : State) (f : Flag) (b : Bool) (a : Addr) : (s.setFlag f b).busRead a = s.busRead a := rfl
@[simp] theorem State.peek_setFlag (s : State) (f : Flag) (b : Bool) (a : Addr) : (s.setFlag f b).peek a = s.peek a := rfl
@[simp] theorem State.busRead_clearFlag (s : State) (f : Flag) (a : Addr) : (s.clearFlag f).busRead a = s.busRead a := rfl
@[simp] theorem State.peek_clearFlag (s : State) (f : Flag) (a : Addr) : (s.clearFlag f).peek a = s.peek a := rfl
@[simp] theorem State.busRead_setNZ (s : State) (r : Byte) (a : Addr) : (s.setNZ r).busRead a = s.busRead a := rfl
@[simp] theorem State.peek_setNZ (s : State) (r : Byte) (a : Addr) : (s.setNZ r).peek a = s.peek a := rfl
@[simp] theorem State.busRead_writeP (s : State) (v : Byte) (a : Addr) : (s.writeP v).busRead a = s.busRead a := rfl
@[simp] theorem State.peek_writeP (s : State) (v : Byte) (a : Addr) : (s.writeP v).peek a = s.peek a := rfl
@[simp] theorem State.peek_setDraws (s : State) (n : Nat) (a : Addr) : (s.setDraws n).peek a = s.peek a := rfl

/-! ### Writes -/

/-- What a bus write does (20_memory.md R45, R48, R52): nothing outside storage, nothing in the cartridge region where
the mapper ignores writes, else one cell. -/
theorem State.busWrite_eq (s : State) (a : Addr) (v : Byte) :
    s.busWrite a v =
      match cell s.cfg a with
      | none => s
      | some c =>
        if 0x8000 ≤ a.toNat ∧ s.cfg.mapper0Write = .ignore then s else s.setMem (s.mem.write c v) := by
  unfold State.busWrite
  cases h : cell s.cfg a with
  | none => rfl
  | some c =>
    dsimp only
    by_cases h8 : a.toNat < 0x8000
    · rw [if_pos h8, if_neg (by omega)]
    · rw [cell_cartridge (by omega)] at h
      rw [← Option.some.inj h, if_neg h8, State.mapperWrite]
      cases hw : s.cfg.mapper0Write
      · rw [if_neg (by simp)]
      · rw [if_pos ⟨by omega, rfl⟩]

/-- A write changes memory at most. -/
theorem State.busWrite_eq_setMem (s : State) (a : Addr) (v : Byte) : ∃ m, s.busWrite a v = s.setMem m := by
  rw [State.busWrite_eq]
  cases cell s.cfg a with
  | none => exact ⟨s.mem, rfl⟩
  | some c =>
    dsimp only
    split_ifs
    · exact ⟨s.mem, rfl⟩
    · exact ⟨_, rfl⟩

@[simp] theorem State.busWrite_a (s : State) (a : Addr) (v : Byte) : (s.busWrite a v).a = s.a := by
  obtain ⟨m, h⟩ := s.busWrite_eq_setMem a v; rw [h]; rfl
@[simp] theorem State.busWrite_x (s : State) (a : Addr) (v : Byte) : (s.busWrite a v).x = s.x := by
  obtain ⟨m, h⟩ := s.busWrite_eq_setMem a v; rw [h]; rfl
@[simp] theorem State.busWrite_y (s : State) (a : Addr) (v : Byte) : (s.busWrite a v).y = s.y := by
  obtain ⟨m, h⟩ := s.busWrite_eq_setMem a v; rw [h]; rfl
@[simp] theorem State.busWrite_sp (s : State) (a : Addr) (v : Byte) : (s.busWrite a v).sp = s.sp := by
  obtain ⟨m, h⟩ := s.busWrite_eq_setMem a v; rw [h]; rfl
@[simp] theorem State.busWrite_p (s : State) (a : Addr) (v : Byte) : (s.busWrite a v).p = s.p := by
  obtain ⟨m, h⟩ := s.busWrite_eq_setMem a v; rw [h]; rfl
@[simp] theorem State.busWrite_pc (s : State) (a : Addr) (v : Byte) : (s.busWrite a v).pc = s.pc := by
  obtain ⟨m, h⟩ := s.busWrite_eq_setMem a v; rw [h]; rfl
@[simp] theorem State.busWrite_cyc (s : State) (a : Addr) (v : Byte) : (s.busWrite a v).cyc = s.cyc := by
  obtain ⟨m, h⟩ := s.busWrite_eq_setMem a v; rw [h]; rfl
@[simp] theorem State.busWrite_nmiPending (s : State) (a : Addr) (v : Byte) : (s.busWrite a v).nmiPending = s.nmiPending := by
  obtain ⟨m, h⟩ := s.busWrite_eq_setMem a v; rw [h]; rfl
@[simp] theorem State.busWrite_fault (s : State) (a : Addr) (v : Byte) : (s.busWrite a v).fault = s.fault := by
  obtain ⟨m, h⟩ := s.busWrite_eq_setMem a v; rw [h]; rfl
@[simp] theorem State.busWrite_cfg (s : State) (a : Addr) (v : Byte) : (s.busWrite a v).cfg = s.cfg := by
  obtain ⟨m, h⟩ := s.busWrite_eq_setMem a v; rw [h]; rfl
@[simp] theorem State.busWrite_inputs (s : State) (a : Addr) (v : Byte) : (s.busWrite a v).inputs = s.inputs := by
  obtain ⟨m, h⟩ := s.busWrite_eq_setMem a v; rw [h]; rfl
@[simp] theorem State.busWrite_draws (s : State) (a : Addr) (v : Byte) : (s.busWrite a v).draws = s.draws := by
  obtain ⟨m, h⟩ := s.busWrite_eq_setMem a v; rw [h]; rfl

/-- A write leaves every address that names another cell as it was. -/
theorem State.peek_busWrite_other {s : State} {a b : Addr} (v : Byte) (h : cell s.cfg b ≠ cell s.cfg a) :
    (s.busWrite a v).peek b = s.peek b := by
  rw [State.busWrite_eq]
  cases ha : cell s.cfg a with
  | none => rfl
  | some c =>
    dsimp only
    split_ifs
    · rfl
    · simp only [State.peek, State.setMem_cfg, State.setMem_mem]
      cases hb : cell s.cfg b with
      | none => rfl
      | some c' =>
        have : c' ≠ c := by rintro rfl; exact h (by rw [ha, hb])
        simp [Memory.read_write_other _ _ this]

/-- In a canonical memory, every address that names the cell written reads the byte written, where the write takes effect
(20_memory.md R46, R52). -/
theorem State.peek_busWrite_same {s : State} (hm : s.mem.wf = true) {a b : Addr} {v : Byte}
    (h : cell s.cfg b = cell s.cfg a) (hs : cell s.cfg a ≠ none)
    (hw : a.toNat < 0x8000 ∨ s.cfg.mapper0Write = .writeThrough) : (s.busWrite a v).peek b = some v := by
  rw [State.busWrite_eq]
  cases ha : cell s.cfg a with
  | none => exact absurd ha hs
  | some c =>
    dsimp only
    rw [if_neg (by rintro ⟨h1, h2⟩; rcases hw with h3 | h3; · omega
                   · rw [h3] at h2; cases h2)]
    simp [State.peek, h, ha, Memory.read_write_same hm]

/-- A write keeps the canonical form. -/
theorem State.busWrite_wf {s : State} (hm : s.mem.wf = true) (a : Addr) (v : Byte) :
    (s.busWrite a v).mem.wf = true := by
  rw [State.busWrite_eq]
  cases ha : cell s.cfg a with
  | none => exact hm
  | some c =>
    dsimp only
    split_ifs
    · exact hm
    · exact Memory.write_wf hm (cell_lt ha) v

/-! ### The stack -/

/-- What a push does (20_memory.md R58). -/
theorem State.push_eq (s : State) (v : Byte) :
    s.push v = (s.setMem (s.mem.write (256 + s.sp.toNat) v)).setSP (s.sp - 1) := by
  have h1 := toNat_stackAddr s.sp
  have h2 := s.sp.isLt
  rw [State.push, State.busWrite_eq, cell_stackAddr]
  dsimp only
  rw [if_neg (by omega)]

/-- What a pull gives (20_memory.md R59). -/
@[simp] theorem State.pull_fst (s : State) : s.pull.1 = s.mem.read (256 + (s.sp + 1).toNat) := by
  rw [State.pull]
  exact State.busRead_of_cell (cell_stackAddr _ _)

/-- A pull moves the stack pointer and changes nothing else (20_memory.md R59). -/
@[simp] theorem State.pull_snd (s : State) : s.pull.2 = s.setSP (s.sp + 1) := rfl

/-- A push keeps the canonical form. -/
theorem State.push_wf {s : State} (hm : s.mem.wf = true) (v : Byte) : (s.push v).mem.wf = true := by
  rw [State.push_eq]
  exact Memory.write_wf hm (by have := s.sp.isLt; omega) v

@[simp] theorem State.push_a (s : State) (v : Byte) : (s.push v).a = s.a := by rw [State.push_eq]; rfl
@[simp] theorem State.push_x (s : State) (v : Byte) : (s.push v).x = s.x := by rw [State.push_eq]; rfl
@[simp] theorem State.push_y (s : State) (v : Byte) : (s.push v).y = s.y := by rw [State.push_eq]; rfl
@[simp] theorem State.push_p (s : State) (v : Byte) : (s.push v).p = s.p := by rw [State.push_eq]; rfl
@[simp] theorem State.push_pc (s : State) (v : Byte) : (s.push v).pc = s.pc := by rw [State.push_eq]; rfl
@[simp] theorem State.push_cyc (s : State) (v : Byte) : (s.push v).cyc = s.cyc := by rw [State.push_eq]; rfl
@[simp] theorem State.push_nmiPending (s : State) (v : Byte) : (s.push v).nmiPending = s.nmiPending := by rw [State.push_eq]; rfl
@[simp] theorem State.push_fault (s : State) (v : Byte) : (s.push v).fault = s.fault := by rw [State.push_eq]; rfl
@[simp] theorem State.push_cfg (s : State) (v : Byte) : (s.push v).cfg = s.cfg := by rw [State.push_eq]; rfl
@[simp] theorem State.push_inputs (s : State) (v : Byte) : (s.push v).inputs = s.inputs := by rw [State.push_eq]; rfl
@[simp] theorem State.push_draws (s : State) (v : Byte) : (s.push v).draws = s.draws := by rw [State.push_eq]; rfl
@[simp] theorem State.push_sp (s : State) (v : Byte) : (s.push v).sp = s.sp - 1 := rfl
@[simp] theorem State.push_mem (s : State) (v : Byte) :
    (s.push v).mem = s.mem.write (256 + s.sp.toNat) v := by rw [State.push_eq]; rfl

/-- A push leaves every address but that of its byte as it was. -/
theorem State.peek_push_other {s : State} {b : Addr} (v : Byte) (h : cell s.cfg b ≠ cell s.cfg (stackAddr s.sp)) :
    (s.push v).peek b = s.peek b := State.peek_busWrite_other v h

/-- What pulling 16 bits gives: the low byte first (20_memory.md R60). -/
@[simp] theorem State.pull16_fst (s : State) :
    s.pull16.1 = wordOf (s.mem.read (256 + (s.sp + 1 + 1).toNat)) (s.mem.read (256 + (s.sp + 1).toNat)) := by
  simp [State.pull16]

@[simp] theorem State.pull16_snd (s : State) : s.pull16.2 = s.setSP (s.sp + 1 + 1) := rfl

/-! ### Interrupts -/

@[simp] theorem State.push16_a (s : State) (w : Addr) : (s.push16 w).a = s.a := by simp [State.push16]
@[simp] theorem State.push16_x (s : State) (w : Addr) : (s.push16 w).x = s.x := by simp [State.push16]
@[simp] theorem State.push16_y (s : State) (w : Addr) : (s.push16 w).y = s.y := by simp [State.push16]
@[simp] theorem State.push16_p (s : State) (w : Addr) : (s.push16 w).p = s.p := by simp [State.push16]
@[simp] theorem State.push16_pc (s : State) (w : Addr) : (s.push16 w).pc = s.pc := by simp [State.push16]
@[simp] theorem State.push16_cyc (s : State) (w : Addr) : (s.push16 w).cyc = s.cyc := by simp [State.push16]
@[simp] theorem State.push16_nmiPending (s : State) (w : Addr) : (s.push16 w).nmiPending = s.nmiPending := by simp [State.push16]
@[simp] theorem State.push16_fault (s : State) (w : Addr) : (s.push16 w).fault = s.fault := by simp [State.push16]
@[simp] theorem State.push16_cfg (s : State) (w : Addr) : (s.push16 w).cfg = s.cfg := by simp [State.push16]
@[simp] theorem State.push16_inputs (s : State) (w : Addr) : (s.push16 w).inputs = s.inputs := by simp [State.push16]
@[simp] theorem State.push16_draws (s : State) (w : Addr) : (s.push16 w).draws = s.draws := by simp [State.push16]
@[simp] theorem State.push16_sp (s : State) (w : Addr) : (s.push16 w).sp = s.sp - 1 - 1 := rfl
@[simp] theorem State.push16_mem (s : State) (w : Addr) :
    (s.push16 w).mem = (s.mem.write (256 + s.sp.toNat) (hiByte w)).write (256 + (s.sp - 1).toNat) (loByte w) := by
  simp [State.push16]

@[simp] theorem State.enterInterrupt_a (s : State) (ret vector : Addr) (i : Bool) :
    (s.enterInterrupt ret vector i).a = s.a := by cases i <;> simp [State.enterInterrupt]
@[simp] theorem State.enterInterrupt_x (s : State) (ret vector : Addr) (i : Bool) :
    (s.enterInterrupt ret vector i).x = s.x := by cases i <;> simp [State.enterInterrupt]
@[simp] theorem State.enterInterrupt_y (s : State) (ret vector : Addr) (i : Bool) :
    (s.enterInterrupt ret vector i).y = s.y := by cases i <;> simp [State.enterInterrupt]
@[simp] theorem State.enterInterrupt_cyc (s : State) (ret vector : Addr) (i : Bool) :
    (s.enterInterrupt ret vector i).cyc = s.cyc := by cases i <;> simp [State.enterInterrupt]
@[simp] theorem State.enterInterrupt_nmiPending (s : State) (ret vector : Addr) (i : Bool) :
    (s.enterInterrupt ret vector i).nmiPending = s.nmiPending := by cases i <;> simp [State.enterInterrupt]
@[simp] theorem State.enterInterrupt_fault (s : State) (ret vector : Addr) (i : Bool) :
    (s.enterInterrupt ret vector i).fault = s.fault := by cases i <;> simp [State.enterInterrupt]
@[simp] theorem State.enterInterrupt_cfg (s : State) (ret vector : Addr) (i : Bool) :
    (s.enterInterrupt ret vector i).cfg = s.cfg := by cases i <;> simp [State.enterInterrupt]
@[simp] theorem State.enterInterrupt_inputs (s : State) (ret vector : Addr) (i : Bool) :
    (s.enterInterrupt ret vector i).inputs = s.inputs := by cases i <;> simp [State.enterInterrupt]
@[simp] theorem State.enterInterrupt_draws (s : State) (ret vector : Addr) (i : Bool) :
    (s.enterInterrupt ret vector i).draws = s.draws := by cases i <;> simp [State.enterInterrupt]

/-- An entry pushes three bytes (60_exceptions.md R175). -/
@[simp] theorem State.enterInterrupt_sp (s : State) (ret vector : Addr) (i : Bool) :
    (s.enterInterrupt ret vector i).sp = s.sp - 1 - 1 - 1 := by cases i <;> simp [State.enterInterrupt]

/-- What an entry stores: the return address high then low, then `P` (60_exceptions.md R172 to R174). -/
@[simp] theorem State.enterInterrupt_mem (s : State) (ret vector : Addr) (i : Bool) :
    (s.enterInterrupt ret vector i).mem =
      ((s.mem.write (256 + s.sp.toNat) (hiByte ret)).write (256 + (s.sp - 1).toNat) (loByte ret)).write
        (256 + (s.sp - 1 - 1).toNat) s.readP := by cases i <;> simp [State.enterInterrupt]

/-- Which flags an entry sets (60_exceptions.md R175). -/
@[simp] theorem State.enterInterrupt_flag (s : State) (ret vector : Addr) (i : Bool) (f : Flag) :
    getFlag (s.enterInterrupt ret vector i).p f =
      if f = .b then true else if f = .i ∧ i = true then true else getFlag s.p f := by
  cases i <;> cases f <;> simp [State.enterInterrupt]

/-- Reading 16 bits above RAM is unmoved by pushes (20_memory.md R57). -/
theorem State.read16_push {s : State} {a : Addr} (v : Byte) (h1 : 0x8000 ≤ a.toNat) (h2 : a.toNat < 65535) :
    (s.push v).read16 a = s.read16 a := by
  have hsp := s.sp.isLt
  have hne : ∀ b : Addr, 0x8000 ≤ b.toNat → (s.push v).busRead b = s.busRead b := by
    intro b hb
    have hc : cell (s.push v).cfg b = some (mapperCell s.cfg b) := by
      rw [State.push_cfg]
      exact cell_cartridge hb
    have hge := mapperCell_ge s.cfg b
    rw [State.busRead_of_cell hc, State.busRead_of_cell (cell_cartridge hb), State.push_mem,
      Memory.read_write_other _ _ (by omega)]
  have ha1 : (a + 1).toNat = a.toNat + 1 := by
    rw [BitVec.toNat_add, show (1 : Addr).toNat = 1 from rfl]
    omega
  rw [State.read16, State.read16, State.afterRead_of_cell (cell_cartridge h1),
    State.afterRead_of_cell (cell_cartridge h1), hne a h1, hne (a + 1) (by omega)]

/-- Where an entry goes: the vector's word, which the pushes cannot change (60_exceptions.md R172, R173). -/
theorem State.enterInterrupt_pc (s : State) (ret vector : Addr) (i : Bool) (h1 : 0x8000 ≤ vector.toNat)
    (h2 : vector.toNat < 65535) : (s.enterInterrupt ret vector i).pc = s.read16 vector := by
  have hr : ((s.push16 ret).push s.readP).read16 vector = s.read16 vector := by
    rw [State.push16, State.read16_push _ h1 h2, State.read16_push _ h1 h2, State.read16_push _ h1 h2]
  cases i <;> simp [State.enterInterrupt, hr]

/-- An entry keeps the canonical form. -/
theorem State.enterInterrupt_wf {s : State} (hm : s.mem.wf = true) (ret vector : Addr) (i : Bool) :
    (s.enterInterrupt ret vector i).mem.wf = true := by
  have h0 := s.sp.isLt
  have h1 := (s.sp - 1).isLt
  have h2 := (s.sp - 1 - 1).isLt
  rw [State.enterInterrupt_mem]
  exact Memory.write_wf (Memory.write_wf (Memory.write_wf hm (by omega) _) (by omega) _) (by omega) _

/-- An entry leaves bit 5 of `P` as it is. -/
@[simp] theorem State.enterInterrupt_bit_five (s : State) (ret vector : Addr) (i : Bool) :
    (s.enterInterrupt ret vector i).p[5] = s.p[5] := by
  cases i <;> simp [State.enterInterrupt]

/-! ### Reset -/

/-- The state after reset is the reset sequence run on itself (70_reset_and_hazards.md R186): its `pc` is the word at
$FFFC of its memory. -/
theorem reset_eq_applyReset : State.reset = State.reset.applyReset := by decide +kernel

end Sys2Proof.Machine
end

