-- ==== Sys2Proof/Laws/PerInstr.lean ====
section
/-! SUPPORT. Statements about every instruction as syntax, one lemma per constructor. -/

namespace Sys2Proof.Laws

/-- The instruction is well formed, and assembling its mnemonic and operand gives it back. -/
def Assembles.Statement (i : Instr) : Prop := i.wf = true ∧ assemble i.mnemonic i.operand = some i

/-- The decoder's row for the instruction's opcode has its mnemonic and its mode. -/
def TableRow.Statement (i : Instr) : Prop :=
  (decodeOpcode i.opcode).map (fun e => (e.mnemonic, e.mode)) = some (i.mnemonic, i.mode)

theorem Assembles.brk : Assembles.Statement (.brk) := ⟨rfl, rfl⟩
theorem Assembles.oraIzx (z : Byte) : Assembles.Statement (.oraIzx z) := ⟨rfl, rfl⟩
theorem Assembles.oraZp (z : Byte) : Assembles.Statement (.oraZp z) := ⟨rfl, rfl⟩
theorem Assembles.aslZp (z : Byte) : Assembles.Statement (.aslZp z) := ⟨rfl, rfl⟩
theorem Assembles.php : Assembles.Statement (.php) := ⟨rfl, rfl⟩
theorem Assembles.oraImm (v : Byte) : Assembles.Statement (.oraImm v) := ⟨rfl, rfl⟩
theorem Assembles.aslAcc : Assembles.Statement (.aslAcc) := ⟨rfl, rfl⟩
theorem Assembles.oraAbs (addr : Addr) : Assembles.Statement (.oraAbs addr) := ⟨rfl, rfl⟩
theorem Assembles.aslAbs (addr : Addr) : Assembles.Statement (.aslAbs addr) := ⟨rfl, rfl⟩
theorem Assembles.bpl (d : Byte) : Assembles.Statement (.bpl d) := ⟨rfl, rfl⟩
theorem Assembles.oraIzy (z : Byte) : Assembles.Statement (.oraIzy z) := ⟨rfl, rfl⟩
theorem Assembles.oraZpx (z : Byte) : Assembles.Statement (.oraZpx z) := ⟨rfl, rfl⟩
theorem Assembles.aslZpx (z : Byte) : Assembles.Statement (.aslZpx z) := ⟨rfl, rfl⟩
theorem Assembles.clc : Assembles.Statement (.clc) := ⟨rfl, rfl⟩
theorem Assembles.oraAbsy (addr : Addr) : Assembles.Statement (.oraAbsy addr) := ⟨rfl, rfl⟩
theorem Assembles.oraAbsx (addr : Addr) : Assembles.Statement (.oraAbsx addr) := ⟨rfl, rfl⟩
theorem Assembles.aslAbsx (addr : Addr) : Assembles.Statement (.aslAbsx addr) := ⟨rfl, rfl⟩
theorem Assembles.jsr (addr : Addr) : Assembles.Statement (.jsr addr) := ⟨rfl, rfl⟩
theorem Assembles.andIzx (z : Byte) : Assembles.Statement (.andIzx z) := ⟨rfl, rfl⟩
theorem Assembles.bitZp (z : Byte) : Assembles.Statement (.bitZp z) := ⟨rfl, rfl⟩
theorem Assembles.andZp (z : Byte) : Assembles.Statement (.andZp z) := ⟨rfl, rfl⟩
theorem Assembles.rolZp (z : Byte) : Assembles.Statement (.rolZp z) := ⟨rfl, rfl⟩
theorem Assembles.plp : Assembles.Statement (.plp) := ⟨rfl, rfl⟩
theorem Assembles.andImm (v : Byte) : Assembles.Statement (.andImm v) := ⟨rfl, rfl⟩
theorem Assembles.rolAcc : Assembles.Statement (.rolAcc) := ⟨rfl, rfl⟩
theorem Assembles.bitAbs (addr : Addr) : Assembles.Statement (.bitAbs addr) := ⟨rfl, rfl⟩
theorem Assembles.andAbs (addr : Addr) : Assembles.Statement (.andAbs addr) := ⟨rfl, rfl⟩
theorem Assembles.rolAbs (addr : Addr) : Assembles.Statement (.rolAbs addr) := ⟨rfl, rfl⟩
theorem Assembles.bmi (d : Byte) : Assembles.Statement (.bmi d) := ⟨rfl, rfl⟩
theorem Assembles.andIzy (z : Byte) : Assembles.Statement (.andIzy z) := ⟨rfl, rfl⟩
theorem Assembles.andZpx (z : Byte) : Assembles.Statement (.andZpx z) := ⟨rfl, rfl⟩
theorem Assembles.rolZpx (z : Byte) : Assembles.Statement (.rolZpx z) := ⟨rfl, rfl⟩
theorem Assembles.sec : Assembles.Statement (.sec) := ⟨rfl, rfl⟩
theorem Assembles.andAbsy (addr : Addr) : Assembles.Statement (.andAbsy addr) := ⟨rfl, rfl⟩
theorem Assembles.andAbsx (addr : Addr) : Assembles.Statement (.andAbsx addr) := ⟨rfl, rfl⟩
theorem Assembles.rolAbsx (addr : Addr) : Assembles.Statement (.rolAbsx addr) := ⟨rfl, rfl⟩
theorem Assembles.rti : Assembles.Statement (.rti) := ⟨rfl, rfl⟩
theorem Assembles.eorIzx (z : Byte) : Assembles.Statement (.eorIzx z) := ⟨rfl, rfl⟩
theorem Assembles.eorZp (z : Byte) : Assembles.Statement (.eorZp z) := ⟨rfl, rfl⟩
theorem Assembles.lsrZp (z : Byte) : Assembles.Statement (.lsrZp z) := ⟨rfl, rfl⟩
theorem Assembles.pha : Assembles.Statement (.pha) := ⟨rfl, rfl⟩
theorem Assembles.eorImm (v : Byte) : Assembles.Statement (.eorImm v) := ⟨rfl, rfl⟩
theorem Assembles.lsrAcc : Assembles.Statement (.lsrAcc) := ⟨rfl, rfl⟩
theorem Assembles.jmpAbs (addr : Addr) : Assembles.Statement (.jmpAbs addr) := ⟨rfl, rfl⟩
theorem Assembles.eorAbs (addr : Addr) : Assembles.Statement (.eorAbs addr) := ⟨rfl, rfl⟩
theorem Assembles.lsrAbs (addr : Addr) : Assembles.Statement (.lsrAbs addr) := ⟨rfl, rfl⟩
theorem Assembles.bvc (d : Byte) : Assembles.Statement (.bvc d) := ⟨rfl, rfl⟩
theorem Assembles.eorIzy (z : Byte) : Assembles.Statement (.eorIzy z) := ⟨rfl, rfl⟩
theorem Assembles.eorZpx (z : Byte) : Assembles.Statement (.eorZpx z) := ⟨rfl, rfl⟩
theorem Assembles.lsrZpx (z : Byte) : Assembles.Statement (.lsrZpx z) := ⟨rfl, rfl⟩
theorem Assembles.cli : Assembles.Statement (.cli) := ⟨rfl, rfl⟩
theorem Assembles.eorAbsy (addr : Addr) : Assembles.Statement (.eorAbsy addr) := ⟨rfl, rfl⟩
theorem Assembles.eorAbsx (addr : Addr) : Assembles.Statement (.eorAbsx addr) := ⟨rfl, rfl⟩
theorem Assembles.lsrAbsx (addr : Addr) : Assembles.Statement (.lsrAbsx addr) := ⟨rfl, rfl⟩
theorem Assembles.rts : Assembles.Statement (.rts) := ⟨rfl, rfl⟩
theorem Assembles.adcIzx (z : Byte) : Assembles.Statement (.adcIzx z) := ⟨rfl, rfl⟩
theorem Assembles.adcZp (z : Byte) : Assembles.Statement (.adcZp z) := ⟨rfl, rfl⟩
theorem Assembles.rorZp (z : Byte) : Assembles.Statement (.rorZp z) := ⟨rfl, rfl⟩
theorem Assembles.pla : Assembles.Statement (.pla) := ⟨rfl, rfl⟩
theorem Assembles.adcImm (v : Byte) : Assembles.Statement (.adcImm v) := ⟨rfl, rfl⟩
theorem Assembles.rorAcc : Assembles.Statement (.rorAcc) := ⟨rfl, rfl⟩
theorem Assembles.jmpInd (ptr : Addr) : Assembles.Statement (.jmpInd ptr) := ⟨rfl, rfl⟩
theorem Assembles.adcAbs (addr : Addr) : Assembles.Statement (.adcAbs addr) := ⟨rfl, rfl⟩
theorem Assembles.rorAbs (addr : Addr) : Assembles.Statement (.rorAbs addr) := ⟨rfl, rfl⟩
theorem Assembles.bvs (d : Byte) : Assembles.Statement (.bvs d) := ⟨rfl, rfl⟩
theorem Assembles.adcIzy (z : Byte) : Assembles.Statement (.adcIzy z) := ⟨rfl, rfl⟩
theorem Assembles.adcZpx (z : Byte) : Assembles.Statement (.adcZpx z) := ⟨rfl, rfl⟩
theorem Assembles.rorZpx (z : Byte) : Assembles.Statement (.rorZpx z) := ⟨rfl, rfl⟩
theorem Assembles.sei : Assembles.Statement (.sei) := ⟨rfl, rfl⟩
theorem Assembles.adcAbsy (addr : Addr) : Assembles.Statement (.adcAbsy addr) := ⟨rfl, rfl⟩
theorem Assembles.adcAbsx (addr : Addr) : Assembles.Statement (.adcAbsx addr) := ⟨rfl, rfl⟩
theorem Assembles.rorAbsx (addr : Addr) : Assembles.Statement (.rorAbsx addr) := ⟨rfl, rfl⟩
theorem Assembles.staIzx (z : Byte) : Assembles.Statement (.staIzx z) := ⟨rfl, rfl⟩
theorem Assembles.styZp (z : Byte) : Assembles.Statement (.styZp z) := ⟨rfl, rfl⟩
theorem Assembles.staZp (z : Byte) : Assembles.Statement (.staZp z) := ⟨rfl, rfl⟩
theorem Assembles.stxZp (z : Byte) : Assembles.Statement (.stxZp z) := ⟨rfl, rfl⟩
theorem Assembles.dey : Assembles.Statement (.dey) := ⟨rfl, rfl⟩
theorem Assembles.txa : Assembles.Statement (.txa) := ⟨rfl, rfl⟩
theorem Assembles.styAbs (addr : Addr) : Assembles.Statement (.styAbs addr) := ⟨rfl, rfl⟩
theorem Assembles.staAbs (addr : Addr) : Assembles.Statement (.staAbs addr) := ⟨rfl, rfl⟩
theorem Assembles.stxAbs (addr : Addr) : Assembles.Statement (.stxAbs addr) := ⟨rfl, rfl⟩
theorem Assembles.bcc (d : Byte) : Assembles.Statement (.bcc d) := ⟨rfl, rfl⟩
theorem Assembles.staIzy (z : Byte) : Assembles.Statement (.staIzy z) := ⟨rfl, rfl⟩
theorem Assembles.styZpx (z : Byte) : Assembles.Statement (.styZpx z) := ⟨rfl, rfl⟩
theorem Assembles.staZpx (z : Byte) : Assembles.Statement (.staZpx z) := ⟨rfl, rfl⟩
theorem Assembles.stxZpy (z : Byte) : Assembles.Statement (.stxZpy z) := ⟨rfl, rfl⟩
theorem Assembles.tya : Assembles.Statement (.tya) := ⟨rfl, rfl⟩
theorem Assembles.staAbsy (addr : Addr) : Assembles.Statement (.staAbsy addr) := ⟨rfl, rfl⟩
theorem Assembles.txs : Assembles.Statement (.txs) := ⟨rfl, rfl⟩
theorem Assembles.staAbsx (addr : Addr) : Assembles.Statement (.staAbsx addr) := ⟨rfl, rfl⟩
theorem Assembles.ldyImm (v : Byte) : Assembles.Statement (.ldyImm v) := ⟨rfl, rfl⟩
theorem Assembles.ldaIzx (z : Byte) : Assembles.Statement (.ldaIzx z) := ⟨rfl, rfl⟩
theorem Assembles.ldxImm (v : Byte) : Assembles.Statement (.ldxImm v) := ⟨rfl, rfl⟩
theorem Assembles.ldyZp (z : Byte) : Assembles.Statement (.ldyZp z) := ⟨rfl, rfl⟩
theorem Assembles.ldaZp (z : Byte) : Assembles.Statement (.ldaZp z) := ⟨rfl, rfl⟩
theorem Assembles.ldxZp (z : Byte) : Assembles.Statement (.ldxZp z) := ⟨rfl, rfl⟩
theorem Assembles.tay : Assembles.Statement (.tay) := ⟨rfl, rfl⟩
theorem Assembles.ldaImm (v : Byte) : Assembles.Statement (.ldaImm v) := ⟨rfl, rfl⟩
theorem Assembles.tax : Assembles.Statement (.tax) := ⟨rfl, rfl⟩
theorem Assembles.ldyAbs (addr : Addr) : Assembles.Statement (.ldyAbs addr) := ⟨rfl, rfl⟩
theorem Assembles.ldaAbs (addr : Addr) : Assembles.Statement (.ldaAbs addr) := ⟨rfl, rfl⟩
theorem Assembles.ldxAbs (addr : Addr) : Assembles.Statement (.ldxAbs addr) := ⟨rfl, rfl⟩
theorem Assembles.bcs (d : Byte) : Assembles.Statement (.bcs d) := ⟨rfl, rfl⟩
theorem Assembles.ldaIzy (z : Byte) : Assembles.Statement (.ldaIzy z) := ⟨rfl, rfl⟩
theorem Assembles.ldyZpx (z : Byte) : Assembles.Statement (.ldyZpx z) := ⟨rfl, rfl⟩
theorem Assembles.ldaZpx (z : Byte) : Assembles.Statement (.ldaZpx z) := ⟨rfl, rfl⟩
theorem Assembles.ldxZpy (z : Byte) : Assembles.Statement (.ldxZpy z) := ⟨rfl, rfl⟩
theorem Assembles.clv : Assembles.Statement (.clv) := ⟨rfl, rfl⟩
theorem Assembles.ldaAbsy (addr : Addr) : Assembles.Statement (.ldaAbsy addr) := ⟨rfl, rfl⟩
theorem Assembles.tsx : Assembles.Statement (.tsx) := ⟨rfl, rfl⟩
theorem Assembles.ldyAbsx (addr : Addr) : Assembles.Statement (.ldyAbsx addr) := ⟨rfl, rfl⟩
theorem Assembles.ldaAbsx (addr : Addr) : Assembles.Statement (.ldaAbsx addr) := ⟨rfl, rfl⟩
theorem Assembles.ldxAbsy (addr : Addr) : Assembles.Statement (.ldxAbsy addr) := ⟨rfl, rfl⟩
theorem Assembles.cpyImm (v : Byte) : Assembles.Statement (.cpyImm v) := ⟨rfl, rfl⟩
theorem Assembles.cmpIzx (z : Byte) : Assembles.Statement (.cmpIzx z) := ⟨rfl, rfl⟩
theorem Assembles.cpyZp (z : Byte) : Assembles.Statement (.cpyZp z) := ⟨rfl, rfl⟩
theorem Assembles.cmpZp (z : Byte) : Assembles.Statement (.cmpZp z) := ⟨rfl, rfl⟩
theorem Assembles.decZp (z : Byte) : Assembles.Statement (.decZp z) := ⟨rfl, rfl⟩
theorem Assembles.iny : Assembles.Statement (.iny) := ⟨rfl, rfl⟩
theorem Assembles.cmpImm (v : Byte) : Assembles.Statement (.cmpImm v) := ⟨rfl, rfl⟩
theorem Assembles.dex : Assembles.Statement (.dex) := ⟨rfl, rfl⟩
theorem Assembles.cpyAbs (addr : Addr) : Assembles.Statement (.cpyAbs addr) := ⟨rfl, rfl⟩
theorem Assembles.cmpAbs (addr : Addr) : Assembles.Statement (.cmpAbs addr) := ⟨rfl, rfl⟩
theorem Assembles.decAbs (addr : Addr) : Assembles.Statement (.decAbs addr) := ⟨rfl, rfl⟩
theorem Assembles.bne (d : Byte) : Assembles.Statement (.bne d) := ⟨rfl, rfl⟩
theorem Assembles.cmpIzy (z : Byte) : Assembles.Statement (.cmpIzy z) := ⟨rfl, rfl⟩
theorem Assembles.cmpZpx (z : Byte) : Assembles.Statement (.cmpZpx z) := ⟨rfl, rfl⟩
theorem Assembles.decZpx (z : Byte) : Assembles.Statement (.decZpx z) := ⟨rfl, rfl⟩
theorem Assembles.cld : Assembles.Statement (.cld) := ⟨rfl, rfl⟩
theorem Assembles.cmpAbsy (addr : Addr) : Assembles.Statement (.cmpAbsy addr) := ⟨rfl, rfl⟩
theorem Assembles.cmpAbsx (addr : Addr) : Assembles.Statement (.cmpAbsx addr) := ⟨rfl, rfl⟩
theorem Assembles.decAbsx (addr : Addr) : Assembles.Statement (.decAbsx addr) := ⟨rfl, rfl⟩
theorem Assembles.cpxImm (v : Byte) : Assembles.Statement (.cpxImm v) := ⟨rfl, rfl⟩
theorem Assembles.sbcIzx (z : Byte) : Assembles.Statement (.sbcIzx z) := ⟨rfl, rfl⟩
theorem Assembles.cpxZp (z : Byte) : Assembles.Statement (.cpxZp z) := ⟨rfl, rfl⟩
theorem Assembles.sbcZp (z : Byte) : Assembles.Statement (.sbcZp z) := ⟨rfl, rfl⟩
theorem Assembles.incZp (z : Byte) : Assembles.Statement (.incZp z) := ⟨rfl, rfl⟩
theorem Assembles.inx : Assembles.Statement (.inx) := ⟨rfl, rfl⟩
theorem Assembles.sbcImm (v : Byte) : Assembles.Statement (.sbcImm v) := ⟨rfl, rfl⟩
theorem Assembles.nop : Assembles.Statement (.nop) := ⟨rfl, rfl⟩
theorem Assembles.cpxAbs (addr : Addr) : Assembles.Statement (.cpxAbs addr) := ⟨rfl, rfl⟩
theorem Assembles.sbcAbs (addr : Addr) : Assembles.Statement (.sbcAbs addr) := ⟨rfl, rfl⟩
theorem Assembles.incAbs (addr : Addr) : Assembles.Statement (.incAbs addr) := ⟨rfl, rfl⟩
theorem Assembles.beq (d : Byte) : Assembles.Statement (.beq d) := ⟨rfl, rfl⟩
theorem Assembles.sbcIzy (z : Byte) : Assembles.Statement (.sbcIzy z) := ⟨rfl, rfl⟩
theorem Assembles.sbcZpx (z : Byte) : Assembles.Statement (.sbcZpx z) := ⟨rfl, rfl⟩
theorem Assembles.incZpx (z : Byte) : Assembles.Statement (.incZpx z) := ⟨rfl, rfl⟩
theorem Assembles.sed : Assembles.Statement (.sed) := ⟨rfl, rfl⟩
theorem Assembles.sbcAbsy (addr : Addr) : Assembles.Statement (.sbcAbsy addr) := ⟨rfl, rfl⟩
theorem Assembles.sbcAbsx (addr : Addr) : Assembles.Statement (.sbcAbsx addr) := ⟨rfl, rfl⟩
theorem Assembles.incAbsx (addr : Addr) : Assembles.Statement (.incAbsx addr) := ⟨rfl, rfl⟩

/-- The statement for every instruction. -/
theorem Assembles.all (i : Instr) : Assembles.Statement i := by
  cases i with
  | brk => exact Assembles.brk
  | oraIzx z => exact Assembles.oraIzx z
  | oraZp z => exact Assembles.oraZp z
  | aslZp z => exact Assembles.aslZp z
  | php => exact Assembles.php
  | oraImm v => exact Assembles.oraImm v
  | aslAcc => exact Assembles.aslAcc
  | oraAbs addr => exact Assembles.oraAbs addr
  | aslAbs addr => exact Assembles.aslAbs addr
  | bpl d => exact Assembles.bpl d
  | oraIzy z => exact Assembles.oraIzy z
  | oraZpx z => exact Assembles.oraZpx z
  | aslZpx z => exact Assembles.aslZpx z
  | clc => exact Assembles.clc
  | oraAbsy addr => exact Assembles.oraAbsy addr
  | oraAbsx addr => exact Assembles.oraAbsx addr
  | aslAbsx addr => exact Assembles.aslAbsx addr
  | jsr addr => exact Assembles.jsr addr
  | andIzx z => exact Assembles.andIzx z
  | bitZp z => exact Assembles.bitZp z
  | andZp z => exact Assembles.andZp z
  | rolZp z => exact Assembles.rolZp z
  | plp => exact Assembles.plp
  | andImm v => exact Assembles.andImm v
  | rolAcc => exact Assembles.rolAcc
  | bitAbs addr => exact Assembles.bitAbs addr
  | andAbs addr => exact Assembles.andAbs addr
  | rolAbs addr => exact Assembles.rolAbs addr
  | bmi d => exact Assembles.bmi d
  | andIzy z => exact Assembles.andIzy z
  | andZpx z => exact Assembles.andZpx z
  | rolZpx z => exact Assembles.rolZpx z
  | sec => exact Assembles.sec
  | andAbsy addr => exact Assembles.andAbsy addr
  | andAbsx addr => exact Assembles.andAbsx addr
  | rolAbsx addr => exact Assembles.rolAbsx addr
  | rti => exact Assembles.rti
  | eorIzx z => exact Assembles.eorIzx z
  | eorZp z => exact Assembles.eorZp z
  | lsrZp z => exact Assembles.lsrZp z
  | pha => exact Assembles.pha
  | eorImm v => exact Assembles.eorImm v
  | lsrAcc => exact Assembles.lsrAcc
  | jmpAbs addr => exact Assembles.jmpAbs addr
  | eorAbs addr => exact Assembles.eorAbs addr
  | lsrAbs addr => exact Assembles.lsrAbs addr
  | bvc d => exact Assembles.bvc d
  | eorIzy z => exact Assembles.eorIzy z
  | eorZpx z => exact Assembles.eorZpx z
  | lsrZpx z => exact Assembles.lsrZpx z
  | cli => exact Assembles.cli
  | eorAbsy addr => exact Assembles.eorAbsy addr
  | eorAbsx addr => exact Assembles.eorAbsx addr
  | lsrAbsx addr => exact Assembles.lsrAbsx addr
  | rts => exact Assembles.rts
  | adcIzx z => exact Assembles.adcIzx z
  | adcZp z => exact Assembles.adcZp z
  | rorZp z => exact Assembles.rorZp z
  | pla => exact Assembles.pla
  | adcImm v => exact Assembles.adcImm v
  | rorAcc => exact Assembles.rorAcc
  | jmpInd ptr => exact Assembles.jmpInd ptr
  | adcAbs addr => exact Assembles.adcAbs addr
  | rorAbs addr => exact Assembles.rorAbs addr
  | bvs d => exact Assembles.bvs d
  | adcIzy z => exact Assembles.adcIzy z
  | adcZpx z => exact Assembles.adcZpx z
  | rorZpx z => exact Assembles.rorZpx z
  | sei => exact Assembles.sei
  | adcAbsy addr => exact Assembles.adcAbsy addr
  | adcAbsx addr => exact Assembles.adcAbsx addr
  | rorAbsx addr => exact Assembles.rorAbsx addr
  | staIzx z => exact Assembles.staIzx z
  | styZp z => exact Assembles.styZp z
  | staZp z => exact Assembles.staZp z
  | stxZp z => exact Assembles.stxZp z
  | dey => exact Assembles.dey
  | txa => exact Assembles.txa
  | styAbs addr => exact Assembles.styAbs addr
  | staAbs addr => exact Assembles.staAbs addr
  | stxAbs addr => exact Assembles.stxAbs addr
  | bcc d => exact Assembles.bcc d
  | staIzy z => exact Assembles.staIzy z
  | styZpx z => exact Assembles.styZpx z
  | staZpx z => exact Assembles.staZpx z
  | stxZpy z => exact Assembles.stxZpy z
  | tya => exact Assembles.tya
  | staAbsy addr => exact Assembles.staAbsy addr
  | txs => exact Assembles.txs
  | staAbsx addr => exact Assembles.staAbsx addr
  | ldyImm v => exact Assembles.ldyImm v
  | ldaIzx z => exact Assembles.ldaIzx z
  | ldxImm v => exact Assembles.ldxImm v
  | ldyZp z => exact Assembles.ldyZp z
  | ldaZp z => exact Assembles.ldaZp z
  | ldxZp z => exact Assembles.ldxZp z
  | tay => exact Assembles.tay
  | ldaImm v => exact Assembles.ldaImm v
  | tax => exact Assembles.tax
  | ldyAbs addr => exact Assembles.ldyAbs addr
  | ldaAbs addr => exact Assembles.ldaAbs addr
  | ldxAbs addr => exact Assembles.ldxAbs addr
  | bcs d => exact Assembles.bcs d
  | ldaIzy z => exact Assembles.ldaIzy z
  | ldyZpx z => exact Assembles.ldyZpx z
  | ldaZpx z => exact Assembles.ldaZpx z
  | ldxZpy z => exact Assembles.ldxZpy z
  | clv => exact Assembles.clv
  | ldaAbsy addr => exact Assembles.ldaAbsy addr
  | tsx => exact Assembles.tsx
  | ldyAbsx addr => exact Assembles.ldyAbsx addr
  | ldaAbsx addr => exact Assembles.ldaAbsx addr
  | ldxAbsy addr => exact Assembles.ldxAbsy addr
  | cpyImm v => exact Assembles.cpyImm v
  | cmpIzx z => exact Assembles.cmpIzx z
  | cpyZp z => exact Assembles.cpyZp z
  | cmpZp z => exact Assembles.cmpZp z
  | decZp z => exact Assembles.decZp z
  | iny => exact Assembles.iny
  | cmpImm v => exact Assembles.cmpImm v
  | dex => exact Assembles.dex
  | cpyAbs addr => exact Assembles.cpyAbs addr
  | cmpAbs addr => exact Assembles.cmpAbs addr
  | decAbs addr => exact Assembles.decAbs addr
  | bne d => exact Assembles.bne d
  | cmpIzy z => exact Assembles.cmpIzy z
  | cmpZpx z => exact Assembles.cmpZpx z
  | decZpx z => exact Assembles.decZpx z
  | cld => exact Assembles.cld
  | cmpAbsy addr => exact Assembles.cmpAbsy addr
  | cmpAbsx addr => exact Assembles.cmpAbsx addr
  | decAbsx addr => exact Assembles.decAbsx addr
  | cpxImm v => exact Assembles.cpxImm v
  | sbcIzx z => exact Assembles.sbcIzx z
  | cpxZp z => exact Assembles.cpxZp z
  | sbcZp z => exact Assembles.sbcZp z
  | incZp z => exact Assembles.incZp z
  | inx => exact Assembles.inx
  | sbcImm v => exact Assembles.sbcImm v
  | nop => exact Assembles.nop
  | cpxAbs addr => exact Assembles.cpxAbs addr
  | sbcAbs addr => exact Assembles.sbcAbs addr
  | incAbs addr => exact Assembles.incAbs addr
  | beq d => exact Assembles.beq d
  | sbcIzy z => exact Assembles.sbcIzy z
  | sbcZpx z => exact Assembles.sbcZpx z
  | incZpx z => exact Assembles.incZpx z
  | sed => exact Assembles.sed
  | sbcAbsy addr => exact Assembles.sbcAbsy addr
  | sbcAbsx addr => exact Assembles.sbcAbsx addr
  | incAbsx addr => exact Assembles.incAbsx addr

/-- The row of a mnemonic and a mode decodes from its own opcode to them. -/
def rowOk (m : Mnemonic) (md : Mode) : Bool :=
  match entryOf m md with
  | some e => decodeOpcode e.opcode == some e && e.mnemonic == m && e.mode == md
  | none => false

/-- Every form the rules of the files 40 to 49 give has its row in the opcode table. -/
theorem rowOk_of_mode (m : Mnemonic) (md : Mode) (h : m.modes.contains md = true) : rowOk m md = true := by
  cases m <;> cases md <;> first | exact absurd h (by decide) | decide +kernel

theorem TableRow.of_rowOk (i : Instr) (h : rowOk i.mnemonic i.mode = true) : TableRow.Statement i := by
  unfold rowOk at h
  unfold TableRow.Statement Instr.opcode
  cases he : entryOf i.mnemonic i.mode with
  | none => simp [he] at h
  | some e =>
    simp only [he, Bool.and_eq_true, beq_iff_eq] at h
    obtain ⟨⟨hd, hm⟩, hmd⟩ := h
    simp [hd, hm, hmd]

theorem TableRow.brk : TableRow.Statement (.brk) := TableRow.of_rowOk _ (rowOk_of_mode _ _ rfl)
theorem TableRow.oraIzx (z : Byte) : TableRow.Statement (.oraIzx z) := TableRow.of_rowOk _ (rowOk_of_mode _ _ rfl)
theorem TableRow.oraZp (z : Byte) : TableRow.Statement (.oraZp z) := TableRow.of_rowOk _ (rowOk_of_mode _ _ rfl)
theorem TableRow.aslZp (z : Byte) : TableRow.Statement (.aslZp z) := TableRow.of_rowOk _ (rowOk_of_mode _ _ rfl)
theorem TableRow.php : TableRow.Statement (.php) := TableRow.of_rowOk _ (rowOk_of_mode _ _ rfl)
theorem TableRow.oraImm (v : Byte) : TableRow.Statement (.oraImm v) := TableRow.of_rowOk _ (rowOk_of_mode _ _ rfl)
theorem TableRow.aslAcc : TableRow.Statement (.aslAcc) := TableRow.of_rowOk _ (rowOk_of_mode _ _ rfl)
theorem TableRow.oraAbs (addr : Addr) : TableRow.Statement (.oraAbs addr) := TableRow.of_rowOk _ (rowOk_of_mode _ _ rfl)
theorem TableRow.aslAbs (addr : Addr) : TableRow.Statement (.aslAbs addr) := TableRow.of_rowOk _ (rowOk_of_mode _ _ rfl)
theorem TableRow.bpl (d : Byte) : TableRow.Statement (.bpl d) := TableRow.of_rowOk _ (rowOk_of_mode _ _ rfl)
theorem TableRow.oraIzy (z : Byte) : TableRow.Statement (.oraIzy z) := TableRow.of_rowOk _ (rowOk_of_mode _ _ rfl)
theorem TableRow.oraZpx (z : Byte) : TableRow.Statement (.oraZpx z) := TableRow.of_rowOk _ (rowOk_of_mode _ _ rfl)
theorem TableRow.aslZpx (z : Byte) : TableRow.Statement (.aslZpx z) := TableRow.of_rowOk _ (rowOk_of_mode _ _ rfl)
theorem TableRow.clc : TableRow.Statement (.clc) := TableRow.of_rowOk _ (rowOk_of_mode _ _ rfl)
theorem TableRow.oraAbsy (addr : Addr) : TableRow.Statement (.oraAbsy addr) := TableRow.of_rowOk _ (rowOk_of_mode _ _ rfl)
theorem TableRow.oraAbsx (addr : Addr) : TableRow.Statement (.oraAbsx addr) := TableRow.of_rowOk _ (rowOk_of_mode _ _ rfl)
theorem TableRow.aslAbsx (addr : Addr) : TableRow.Statement (.aslAbsx addr) := TableRow.of_rowOk _ (rowOk_of_mode _ _ rfl)
theorem TableRow.jsr (addr : Addr) : TableRow.Statement (.jsr addr) := TableRow.of_rowOk _ (rowOk_of_mode _ _ rfl)
theorem TableRow.andIzx (z : Byte) : TableRow.Statement (.andIzx z) := TableRow.of_rowOk _ (rowOk_of_mode _ _ rfl)
theorem TableRow.bitZp (z : Byte) : TableRow.Statement (.bitZp z) := TableRow.of_rowOk _ (rowOk_of_mode _ _ rfl)
theorem TableRow.andZp (z : Byte) : TableRow.Statement (.andZp z) := TableRow.of_rowOk _ (rowOk_of_mode _ _ rfl)
theorem TableRow.rolZp (z : Byte) : TableRow.Statement (.rolZp z) := TableRow.of_rowOk _ (rowOk_of_mode _ _ rfl)
theorem TableRow.plp : TableRow.Statement (.plp) := TableRow.of_rowOk _ (rowOk_of_mode _ _ rfl)
theorem TableRow.andImm (v : Byte) : TableRow.Statement (.andImm v) := TableRow.of_rowOk _ (rowOk_of_mode _ _ rfl)
theorem TableRow.rolAcc : TableRow.Statement (.rolAcc) := TableRow.of_rowOk _ (rowOk_of_mode _ _ rfl)
theorem TableRow.bitAbs (addr : Addr) : TableRow.Statement (.bitAbs addr) := TableRow.of_rowOk _ (rowOk_of_mode _ _ rfl)
theorem TableRow.andAbs (addr : Addr) : TableRow.Statement (.andAbs addr) := TableRow.of_rowOk _ (rowOk_of_mode _ _ rfl)
theorem TableRow.rolAbs (addr : Addr) : TableRow.Statement (.rolAbs addr) := TableRow.of_rowOk _ (rowOk_of_mode _ _ rfl)
theorem TableRow.bmi (d : Byte) : TableRow.Statement (.bmi d) := TableRow.of_rowOk _ (rowOk_of_mode _ _ rfl)
theorem TableRow.andIzy (z : Byte) : TableRow.Statement (.andIzy z) := TableRow.of_rowOk _ (rowOk_of_mode _ _ rfl)
theorem TableRow.andZpx (z : Byte) : TableRow.Statement (.andZpx z) := TableRow.of_rowOk _ (rowOk_of_mode _ _ rfl)
theorem TableRow.rolZpx (z : Byte) : TableRow.Statement (.rolZpx z) := TableRow.of_rowOk _ (rowOk_of_mode _ _ rfl)
theorem TableRow.sec : TableRow.Statement (.sec) := TableRow.of_rowOk _ (rowOk_of_mode _ _ rfl)
theorem TableRow.andAbsy (addr : Addr) : TableRow.Statement (.andAbsy addr) := TableRow.of_rowOk _ (rowOk_of_mode _ _ rfl)
theorem TableRow.andAbsx (addr : Addr) : TableRow.Statement (.andAbsx addr) := TableRow.of_rowOk _ (rowOk_of_mode _ _ rfl)
theorem TableRow.rolAbsx (addr : Addr) : TableRow.Statement (.rolAbsx addr) := TableRow.of_rowOk _ (rowOk_of_mode _ _ rfl)
theorem TableRow.rti : TableRow.Statement (.rti) := TableRow.of_rowOk _ (rowOk_of_mode _ _ rfl)
theorem TableRow.eorIzx (z : Byte) : TableRow.Statement (.eorIzx z) := TableRow.of_rowOk _ (rowOk_of_mode _ _ rfl)
theorem TableRow.eorZp (z : Byte) : TableRow.Statement (.eorZp z) := TableRow.of_rowOk _ (rowOk_of_mode _ _ rfl)
theorem TableRow.lsrZp (z : Byte) : TableRow.Statement (.lsrZp z) := TableRow.of_rowOk _ (rowOk_of_mode _ _ rfl)
theorem TableRow.pha : TableRow.Statement (.pha) := TableRow.of_rowOk _ (rowOk_of_mode _ _ rfl)
theorem TableRow.eorImm (v : Byte) : TableRow.Statement (.eorImm v) := TableRow.of_rowOk _ (rowOk_of_mode _ _ rfl)
theorem TableRow.lsrAcc : TableRow.Statement (.lsrAcc) := TableRow.of_rowOk _ (rowOk_of_mode _ _ rfl)
theorem TableRow.jmpAbs (addr : Addr) : TableRow.Statement (.jmpAbs addr) := TableRow.of_rowOk _ (rowOk_of_mode _ _ rfl)
theorem TableRow.eorAbs (addr : Addr) : TableRow.Statement (.eorAbs addr) := TableRow.of_rowOk _ (rowOk_of_mode _ _ rfl)
theorem TableRow.lsrAbs (addr : Addr) : TableRow.Statement (.lsrAbs addr) := TableRow.of_rowOk _ (rowOk_of_mode _ _ rfl)
theorem TableRow.bvc (d : Byte) : TableRow.Statement (.bvc d) := TableRow.of_rowOk _ (rowOk_of_mode _ _ rfl)
theorem TableRow.eorIzy (z : Byte) : TableRow.Statement (.eorIzy z) := TableRow.of_rowOk _ (rowOk_of_mode _ _ rfl)
theorem TableRow.eorZpx (z : Byte) : TableRow.Statement (.eorZpx z) := TableRow.of_rowOk _ (rowOk_of_mode _ _ rfl)
theorem TableRow.lsrZpx (z : Byte) : TableRow.Statement (.lsrZpx z) := TableRow.of_rowOk _ (rowOk_of_mode _ _ rfl)
theorem TableRow.cli : TableRow.Statement (.cli) := TableRow.of_rowOk _ (rowOk_of_mode _ _ rfl)
theorem TableRow.eorAbsy (addr : Addr) : TableRow.Statement (.eorAbsy addr) := TableRow.of_rowOk _ (rowOk_of_mode _ _ rfl)
theorem TableRow.eorAbsx (addr : Addr) : TableRow.Statement (.eorAbsx addr) := TableRow.of_rowOk _ (rowOk_of_mode _ _ rfl)
theorem TableRow.lsrAbsx (addr : Addr) : TableRow.Statement (.lsrAbsx addr) := TableRow.of_rowOk _ (rowOk_of_mode _ _ rfl)
theorem TableRow.rts : TableRow.Statement (.rts) := TableRow.of_rowOk _ (rowOk_of_mode _ _ rfl)
theorem TableRow.adcIzx (z : Byte) : TableRow.Statement (.adcIzx z) := TableRow.of_rowOk _ (rowOk_of_mode _ _ rfl)
theorem TableRow.adcZp (z : Byte) : TableRow.Statement (.adcZp z) := TableRow.of_rowOk _ (rowOk_of_mode _ _ rfl)
theorem TableRow.rorZp (z : Byte) : TableRow.Statement (.rorZp z) := TableRow.of_rowOk _ (rowOk_of_mode _ _ rfl)
theorem TableRow.pla : TableRow.Statement (.pla) := TableRow.of_rowOk _ (rowOk_of_mode _ _ rfl)
theorem TableRow.adcImm (v : Byte) : TableRow.Statement (.adcImm v) := TableRow.of_rowOk _ (rowOk_of_mode _ _ rfl)
theorem TableRow.rorAcc : TableRow.Statement (.rorAcc) := TableRow.of_rowOk _ (rowOk_of_mode _ _ rfl)
theorem TableRow.jmpInd (ptr : Addr) : TableRow.Statement (.jmpInd ptr) := TableRow.of_rowOk _ (rowOk_of_mode _ _ rfl)
theorem TableRow.adcAbs (addr : Addr) : TableRow.Statement (.adcAbs addr) := TableRow.of_rowOk _ (rowOk_of_mode _ _ rfl)
theorem TableRow.rorAbs (addr : Addr) : TableRow.Statement (.rorAbs addr) := TableRow.of_rowOk _ (rowOk_of_mode _ _ rfl)
theorem TableRow.bvs (d : Byte) : TableRow.Statement (.bvs d) := TableRow.of_rowOk _ (rowOk_of_mode _ _ rfl)
theorem TableRow.adcIzy (z : Byte) : TableRow.Statement (.adcIzy z) := TableRow.of_rowOk _ (rowOk_of_mode _ _ rfl)
theorem TableRow.adcZpx (z : Byte) : TableRow.Statement (.adcZpx z) := TableRow.of_rowOk _ (rowOk_of_mode _ _ rfl)
theorem TableRow.rorZpx (z : Byte) : TableRow.Statement (.rorZpx z) := TableRow.of_rowOk _ (rowOk_of_mode _ _ rfl)
theorem TableRow.sei : TableRow.Statement (.sei) := TableRow.of_rowOk _ (rowOk_of_mode _ _ rfl)
theorem TableRow.adcAbsy (addr : Addr) : TableRow.Statement (.adcAbsy addr) := TableRow.of_rowOk _ (rowOk_of_mode _ _ rfl)
theorem TableRow.adcAbsx (addr : Addr) : TableRow.Statement (.adcAbsx addr) := TableRow.of_rowOk _ (rowOk_of_mode _ _ rfl)
theorem TableRow.rorAbsx (addr : Addr) : TableRow.Statement (.rorAbsx addr) := TableRow.of_rowOk _ (rowOk_of_mode _ _ rfl)
theorem TableRow.staIzx (z : Byte) : TableRow.Statement (.staIzx z) := TableRow.of_rowOk _ (rowOk_of_mode _ _ rfl)
theorem TableRow.styZp (z : Byte) : TableRow.Statement (.styZp z) := TableRow.of_rowOk _ (rowOk_of_mode _ _ rfl)
theorem TableRow.staZp (z : Byte) : TableRow.Statement (.staZp z) := TableRow.of_rowOk _ (rowOk_of_mode _ _ rfl)
theorem TableRow.stxZp (z : Byte) : TableRow.Statement (.stxZp z) := TableRow.of_rowOk _ (rowOk_of_mode _ _ rfl)
theorem TableRow.dey : TableRow.Statement (.dey) := TableRow.of_rowOk _ (rowOk_of_mode _ _ rfl)
theorem TableRow.txa : TableRow.Statement (.txa) := TableRow.of_rowOk _ (rowOk_of_mode _ _ rfl)
theorem TableRow.styAbs (addr : Addr) : TableRow.Statement (.styAbs addr) := TableRow.of_rowOk _ (rowOk_of_mode _ _ rfl)
theorem TableRow.staAbs (addr : Addr) : TableRow.Statement (.staAbs addr) := TableRow.of_rowOk _ (rowOk_of_mode _ _ rfl)
theorem TableRow.stxAbs (addr : Addr) : TableRow.Statement (.stxAbs addr) := TableRow.of_rowOk _ (rowOk_of_mode _ _ rfl)
theorem TableRow.bcc (d : Byte) : TableRow.Statement (.bcc d) := TableRow.of_rowOk _ (rowOk_of_mode _ _ rfl)
theorem TableRow.staIzy (z : Byte) : TableRow.Statement (.staIzy z) := TableRow.of_rowOk _ (rowOk_of_mode _ _ rfl)
theorem TableRow.styZpx (z : Byte) : TableRow.Statement (.styZpx z) := TableRow.of_rowOk _ (rowOk_of_mode _ _ rfl)
theorem TableRow.staZpx (z : Byte) : TableRow.Statement (.staZpx z) := TableRow.of_rowOk _ (rowOk_of_mode _ _ rfl)
theorem TableRow.stxZpy (z : Byte) : TableRow.Statement (.stxZpy z) := TableRow.of_rowOk _ (rowOk_of_mode _ _ rfl)
theorem TableRow.tya : TableRow.Statement (.tya) := TableRow.of_rowOk _ (rowOk_of_mode _ _ rfl)
theorem TableRow.staAbsy (addr : Addr) : TableRow.Statement (.staAbsy addr) := TableRow.of_rowOk _ (rowOk_of_mode _ _ rfl)
theorem TableRow.txs : TableRow.Statement (.txs) := TableRow.of_rowOk _ (rowOk_of_mode _ _ rfl)
theorem TableRow.staAbsx (addr : Addr) : TableRow.Statement (.staAbsx addr) := TableRow.of_rowOk _ (rowOk_of_mode _ _ rfl)
theorem TableRow.ldyImm (v : Byte) : TableRow.Statement (.ldyImm v) := TableRow.of_rowOk _ (rowOk_of_mode _ _ rfl)
theorem TableRow.ldaIzx (z : Byte) : TableRow.Statement (.ldaIzx z) := TableRow.of_rowOk _ (rowOk_of_mode _ _ rfl)
theorem TableRow.ldxImm (v : Byte) : TableRow.Statement (.ldxImm v) := TableRow.of_rowOk _ (rowOk_of_mode _ _ rfl)
theorem TableRow.ldyZp (z : Byte) : TableRow.Statement (.ldyZp z) := TableRow.of_rowOk _ (rowOk_of_mode _ _ rfl)
theorem TableRow.ldaZp (z : Byte) : TableRow.Statement (.ldaZp z) := TableRow.of_rowOk _ (rowOk_of_mode _ _ rfl)
theorem TableRow.ldxZp (z : Byte) : TableRow.Statement (.ldxZp z) := TableRow.of_rowOk _ (rowOk_of_mode _ _ rfl)
theorem TableRow.tay : TableRow.Statement (.tay) := TableRow.of_rowOk _ (rowOk_of_mode _ _ rfl)
theorem TableRow.ldaImm (v : Byte) : TableRow.Statement (.ldaImm v) := TableRow.of_rowOk _ (rowOk_of_mode _ _ rfl)
theorem TableRow.tax : TableRow.Statement (.tax) := TableRow.of_rowOk _ (rowOk_of_mode _ _ rfl)
theorem TableRow.ldyAbs (addr : Addr) : TableRow.Statement (.ldyAbs addr) := TableRow.of_rowOk _ (rowOk_of_mode _ _ rfl)
theorem TableRow.ldaAbs (addr : Addr) : TableRow.Statement (.ldaAbs addr) := TableRow.of_rowOk _ (rowOk_of_mode _ _ rfl)
theorem TableRow.ldxAbs (addr : Addr) : TableRow.Statement (.ldxAbs addr) := TableRow.of_rowOk _ (rowOk_of_mode _ _ rfl)
theorem TableRow.bcs (d : Byte) : TableRow.Statement (.bcs d) := TableRow.of_rowOk _ (rowOk_of_mode _ _ rfl)
theorem TableRow.ldaIzy (z : Byte) : TableRow.Statement (.ldaIzy z) := TableRow.of_rowOk _ (rowOk_of_mode _ _ rfl)
theorem TableRow.ldyZpx (z : Byte) : TableRow.Statement (.ldyZpx z) := TableRow.of_rowOk _ (rowOk_of_mode _ _ rfl)
theorem TableRow.ldaZpx (z : Byte) : TableRow.Statement (.ldaZpx z) := TableRow.of_rowOk _ (rowOk_of_mode _ _ rfl)
theorem TableRow.ldxZpy (z : Byte) : TableRow.Statement (.ldxZpy z) := TableRow.of_rowOk _ (rowOk_of_mode _ _ rfl)
theorem TableRow.clv : TableRow.Statement (.clv) := TableRow.of_rowOk _ (rowOk_of_mode _ _ rfl)
theorem TableRow.ldaAbsy (addr : Addr) : TableRow.Statement (.ldaAbsy addr) := TableRow.of_rowOk _ (rowOk_of_mode _ _ rfl)
theorem TableRow.tsx : TableRow.Statement (.tsx) := TableRow.of_rowOk _ (rowOk_of_mode _ _ rfl)
theorem TableRow.ldyAbsx (addr : Addr) : TableRow.Statement (.ldyAbsx addr) := TableRow.of_rowOk _ (rowOk_of_mode _ _ rfl)
theorem TableRow.ldaAbsx (addr : Addr) : TableRow.Statement (.ldaAbsx addr) := TableRow.of_rowOk _ (rowOk_of_mode _ _ rfl)
theorem TableRow.ldxAbsy (addr : Addr) : TableRow.Statement (.ldxAbsy addr) := TableRow.of_rowOk _ (rowOk_of_mode _ _ rfl)
theorem TableRow.cpyImm (v : Byte) : TableRow.Statement (.cpyImm v) := TableRow.of_rowOk _ (rowOk_of_mode _ _ rfl)
theorem TableRow.cmpIzx (z : Byte) : TableRow.Statement (.cmpIzx z) := TableRow.of_rowOk _ (rowOk_of_mode _ _ rfl)
theorem TableRow.cpyZp (z : Byte) : TableRow.Statement (.cpyZp z) := TableRow.of_rowOk _ (rowOk_of_mode _ _ rfl)
theorem TableRow.cmpZp (z : Byte) : TableRow.Statement (.cmpZp z) := TableRow.of_rowOk _ (rowOk_of_mode _ _ rfl)
theorem TableRow.decZp (z : Byte) : TableRow.Statement (.decZp z) := TableRow.of_rowOk _ (rowOk_of_mode _ _ rfl)
theorem TableRow.iny : TableRow.Statement (.iny) := TableRow.of_rowOk _ (rowOk_of_mode _ _ rfl)
theorem TableRow.cmpImm (v : Byte) : TableRow.Statement (.cmpImm v) := TableRow.of_rowOk _ (rowOk_of_mode _ _ rfl)
theorem TableRow.dex : TableRow.Statement (.dex) := TableRow.of_rowOk _ (rowOk_of_mode _ _ rfl)
theorem TableRow.cpyAbs (addr : Addr) : TableRow.Statement (.cpyAbs addr) := TableRow.of_rowOk _ (rowOk_of_mode _ _ rfl)
theorem TableRow.cmpAbs (addr : Addr) : TableRow.Statement (.cmpAbs addr) := TableRow.of_rowOk _ (rowOk_of_mode _ _ rfl)
theorem TableRow.decAbs (addr : Addr) : TableRow.Statement (.decAbs addr) := TableRow.of_rowOk _ (rowOk_of_mode _ _ rfl)
theorem TableRow.bne (d : Byte) : TableRow.Statement (.bne d) := TableRow.of_rowOk _ (rowOk_of_mode _ _ rfl)
theorem TableRow.cmpIzy (z : Byte) : TableRow.Statement (.cmpIzy z) := TableRow.of_rowOk _ (rowOk_of_mode _ _ rfl)
theorem TableRow.cmpZpx (z : Byte) : TableRow.Statement (.cmpZpx z) := TableRow.of_rowOk _ (rowOk_of_mode _ _ rfl)
theorem TableRow.decZpx (z : Byte) : TableRow.Statement (.decZpx z) := TableRow.of_rowOk _ (rowOk_of_mode _ _ rfl)
theorem TableRow.cld : TableRow.Statement (.cld) := TableRow.of_rowOk _ (rowOk_of_mode _ _ rfl)
theorem TableRow.cmpAbsy (addr : Addr) : TableRow.Statement (.cmpAbsy addr) := TableRow.of_rowOk _ (rowOk_of_mode _ _ rfl)
theorem TableRow.cmpAbsx (addr : Addr) : TableRow.Statement (.cmpAbsx addr) := TableRow.of_rowOk _ (rowOk_of_mode _ _ rfl)
theorem TableRow.decAbsx (addr : Addr) : TableRow.Statement (.decAbsx addr) := TableRow.of_rowOk _ (rowOk_of_mode _ _ rfl)
theorem TableRow.cpxImm (v : Byte) : TableRow.Statement (.cpxImm v) := TableRow.of_rowOk _ (rowOk_of_mode _ _ rfl)
theorem TableRow.sbcIzx (z : Byte) : TableRow.Statement (.sbcIzx z) := TableRow.of_rowOk _ (rowOk_of_mode _ _ rfl)
theorem TableRow.cpxZp (z : Byte) : TableRow.Statement (.cpxZp z) := TableRow.of_rowOk _ (rowOk_of_mode _ _ rfl)
theorem TableRow.sbcZp (z : Byte) : TableRow.Statement (.sbcZp z) := TableRow.of_rowOk _ (rowOk_of_mode _ _ rfl)
theorem TableRow.incZp (z : Byte) : TableRow.Statement (.incZp z) := TableRow.of_rowOk _ (rowOk_of_mode _ _ rfl)
theorem TableRow.inx : TableRow.Statement (.inx) := TableRow.of_rowOk _ (rowOk_of_mode _ _ rfl)
theorem TableRow.sbcImm (v : Byte) : TableRow.Statement (.sbcImm v) := TableRow.of_rowOk _ (rowOk_of_mode _ _ rfl)
theorem TableRow.nop : TableRow.Statement (.nop) := TableRow.of_rowOk _ (rowOk_of_mode _ _ rfl)
theorem TableRow.cpxAbs (addr : Addr) : TableRow.Statement (.cpxAbs addr) := TableRow.of_rowOk _ (rowOk_of_mode _ _ rfl)
theorem TableRow.sbcAbs (addr : Addr) : TableRow.Statement (.sbcAbs addr) := TableRow.of_rowOk _ (rowOk_of_mode _ _ rfl)
theorem TableRow.incAbs (addr : Addr) : TableRow.Statement (.incAbs addr) := TableRow.of_rowOk _ (rowOk_of_mode _ _ rfl)
theorem TableRow.beq (d : Byte) : TableRow.Statement (.beq d) := TableRow.of_rowOk _ (rowOk_of_mode _ _ rfl)
theorem TableRow.sbcIzy (z : Byte) : TableRow.Statement (.sbcIzy z) := TableRow.of_rowOk _ (rowOk_of_mode _ _ rfl)
theorem TableRow.sbcZpx (z : Byte) : TableRow.Statement (.sbcZpx z) := TableRow.of_rowOk _ (rowOk_of_mode _ _ rfl)
theorem TableRow.incZpx (z : Byte) : TableRow.Statement (.incZpx z) := TableRow.of_rowOk _ (rowOk_of_mode _ _ rfl)
theorem TableRow.sed : TableRow.Statement (.sed) := TableRow.of_rowOk _ (rowOk_of_mode _ _ rfl)
theorem TableRow.sbcAbsy (addr : Addr) : TableRow.Statement (.sbcAbsy addr) := TableRow.of_rowOk _ (rowOk_of_mode _ _ rfl)
theorem TableRow.sbcAbsx (addr : Addr) : TableRow.Statement (.sbcAbsx addr) := TableRow.of_rowOk _ (rowOk_of_mode _ _ rfl)
theorem TableRow.incAbsx (addr : Addr) : TableRow.Statement (.incAbsx addr) := TableRow.of_rowOk _ (rowOk_of_mode _ _ rfl)

/-- The statement for every instruction. -/
theorem TableRow.all (i : Instr) : TableRow.Statement i := by
  cases i with
  | brk => exact TableRow.brk
  | oraIzx z => exact TableRow.oraIzx z
  | oraZp z => exact TableRow.oraZp z
  | aslZp z => exact TableRow.aslZp z
  | php => exact TableRow.php
  | oraImm v => exact TableRow.oraImm v
  | aslAcc => exact TableRow.aslAcc
  | oraAbs addr => exact TableRow.oraAbs addr
  | aslAbs addr => exact TableRow.aslAbs addr
  | bpl d => exact TableRow.bpl d
  | oraIzy z => exact TableRow.oraIzy z
  | oraZpx z => exact TableRow.oraZpx z
  | aslZpx z => exact TableRow.aslZpx z
  | clc => exact TableRow.clc
  | oraAbsy addr => exact TableRow.oraAbsy addr
  | oraAbsx addr => exact TableRow.oraAbsx addr
  | aslAbsx addr => exact TableRow.aslAbsx addr
  | jsr addr => exact TableRow.jsr addr
  | andIzx z => exact TableRow.andIzx z
  | bitZp z => exact TableRow.bitZp z
  | andZp z => exact TableRow.andZp z
  | rolZp z => exact TableRow.rolZp z
  | plp => exact TableRow.plp
  | andImm v => exact TableRow.andImm v
  | rolAcc => exact TableRow.rolAcc
  | bitAbs addr => exact TableRow.bitAbs addr
  | andAbs addr => exact TableRow.andAbs addr
  | rolAbs addr => exact TableRow.rolAbs addr
  | bmi d => exact TableRow.bmi d
  | andIzy z => exact TableRow.andIzy z
  | andZpx z => exact TableRow.andZpx z
  | rolZpx z => exact TableRow.rolZpx z
  | sec => exact TableRow.sec
  | andAbsy addr => exact TableRow.andAbsy addr
  | andAbsx addr => exact TableRow.andAbsx addr
  | rolAbsx addr => exact TableRow.rolAbsx addr
  | rti => exact TableRow.rti
  | eorIzx z => exact TableRow.eorIzx z
  | eorZp z => exact TableRow.eorZp z
  | lsrZp z => exact TableRow.lsrZp z
  | pha => exact TableRow.pha
  | eorImm v => exact TableRow.eorImm v
  | lsrAcc => exact TableRow.lsrAcc
  | jmpAbs addr => exact TableRow.jmpAbs addr
  | eorAbs addr => exact TableRow.eorAbs addr
  | lsrAbs addr => exact TableRow.lsrAbs addr
  | bvc d => exact TableRow.bvc d
  | eorIzy z => exact TableRow.eorIzy z
  | eorZpx z => exact TableRow.eorZpx z
  | lsrZpx z => exact TableRow.lsrZpx z
  | cli => exact TableRow.cli
  | eorAbsy addr => exact TableRow.eorAbsy addr
  | eorAbsx addr => exact TableRow.eorAbsx addr
  | lsrAbsx addr => exact TableRow.lsrAbsx addr
  | rts => exact TableRow.rts
  | adcIzx z => exact TableRow.adcIzx z
  | adcZp z => exact TableRow.adcZp z
  | rorZp z => exact TableRow.rorZp z
  | pla => exact TableRow.pla
  | adcImm v => exact TableRow.adcImm v
  | rorAcc => exact TableRow.rorAcc
  | jmpInd ptr => exact TableRow.jmpInd ptr
  | adcAbs addr => exact TableRow.adcAbs addr
  | rorAbs addr => exact TableRow.rorAbs addr
  | bvs d => exact TableRow.bvs d
  | adcIzy z => exact TableRow.adcIzy z
  | adcZpx z => exact TableRow.adcZpx z
  | rorZpx z => exact TableRow.rorZpx z
  | sei => exact TableRow.sei
  | adcAbsy addr => exact TableRow.adcAbsy addr
  | adcAbsx addr => exact TableRow.adcAbsx addr
  | rorAbsx addr => exact TableRow.rorAbsx addr
  | staIzx z => exact TableRow.staIzx z
  | styZp z => exact TableRow.styZp z
  | staZp z => exact TableRow.staZp z
  | stxZp z => exact TableRow.stxZp z
  | dey => exact TableRow.dey
  | txa => exact TableRow.txa
  | styAbs addr => exact TableRow.styAbs addr
  | staAbs addr => exact TableRow.staAbs addr
  | stxAbs addr => exact TableRow.stxAbs addr
  | bcc d => exact TableRow.bcc d
  | staIzy z => exact TableRow.staIzy z
  | styZpx z => exact TableRow.styZpx z
  | staZpx z => exact TableRow.staZpx z
  | stxZpy z => exact TableRow.stxZpy z
  | tya => exact TableRow.tya
  | staAbsy addr => exact TableRow.staAbsy addr
  | txs => exact TableRow.txs
  | staAbsx addr => exact TableRow.staAbsx addr
  | ldyImm v => exact TableRow.ldyImm v
  | ldaIzx z => exact TableRow.ldaIzx z
  | ldxImm v => exact TableRow.ldxImm v
  | ldyZp z => exact TableRow.ldyZp z
  | ldaZp z => exact TableRow.ldaZp z
  | ldxZp z => exact TableRow.ldxZp z
  | tay => exact TableRow.tay
  | ldaImm v => exact TableRow.ldaImm v
  | tax => exact TableRow.tax
  | ldyAbs addr => exact TableRow.ldyAbs addr
  | ldaAbs addr => exact TableRow.ldaAbs addr
  | ldxAbs addr => exact TableRow.ldxAbs addr
  | bcs d => exact TableRow.bcs d
  | ldaIzy z => exact TableRow.ldaIzy z
  | ldyZpx z => exact TableRow.ldyZpx z
  | ldaZpx z => exact TableRow.ldaZpx z
  | ldxZpy z => exact TableRow.ldxZpy z
  | clv => exact TableRow.clv
  | ldaAbsy addr => exact TableRow.ldaAbsy addr
  | tsx => exact TableRow.tsx
  | ldyAbsx addr => exact TableRow.ldyAbsx addr
  | ldaAbsx addr => exact TableRow.ldaAbsx addr
  | ldxAbsy addr => exact TableRow.ldxAbsy addr
  | cpyImm v => exact TableRow.cpyImm v
  | cmpIzx z => exact TableRow.cmpIzx z
  | cpyZp z => exact TableRow.cpyZp z
  | cmpZp z => exact TableRow.cmpZp z
  | decZp z => exact TableRow.decZp z
  | iny => exact TableRow.iny
  | cmpImm v => exact TableRow.cmpImm v
  | dex => exact TableRow.dex
  | cpyAbs addr => exact TableRow.cpyAbs addr
  | cmpAbs addr => exact TableRow.cmpAbs addr
  | decAbs addr => exact TableRow.decAbs addr
  | bne d => exact TableRow.bne d
  | cmpIzy z => exact TableRow.cmpIzy z
  | cmpZpx z => exact TableRow.cmpZpx z
  | decZpx z => exact TableRow.decZpx z
  | cld => exact TableRow.cld
  | cmpAbsy addr => exact TableRow.cmpAbsy addr
  | cmpAbsx addr => exact TableRow.cmpAbsx addr
  | decAbsx addr => exact TableRow.decAbsx addr
  | cpxImm v => exact TableRow.cpxImm v
  | sbcIzx z => exact TableRow.sbcIzx z
  | cpxZp z => exact TableRow.cpxZp z
  | sbcZp z => exact TableRow.sbcZp z
  | incZp z => exact TableRow.incZp z
  | inx => exact TableRow.inx
  | sbcImm v => exact TableRow.sbcImm v
  | nop => exact TableRow.nop
  | cpxAbs addr => exact TableRow.cpxAbs addr
  | sbcAbs addr => exact TableRow.sbcAbs addr
  | incAbs addr => exact TableRow.incAbs addr
  | beq d => exact TableRow.beq d
  | sbcIzy z => exact TableRow.sbcIzy z
  | sbcZpx z => exact TableRow.sbcZpx z
  | incZpx z => exact TableRow.incZpx z
  | sed => exact TableRow.sed
  | sbcAbsy addr => exact TableRow.sbcAbsy addr
  | sbcAbsx addr => exact TableRow.sbcAbsx addr
  | incAbsx addr => exact TableRow.incAbsx addr

end Sys2Proof.Laws
end

