-- ==== Sys2Proof/Laws/Decode.lean ====
section
/-! SUPPORT. Facts about the opcode table, the assembler and the decoder's parts. -/

namespace Sys2Proof

/-- The value of a word joined from two bytes (00_scope.md R16). -/
theorem toNat_wordOf (hi lo : Byte) : (wordOf hi lo).toNat = hi.toNat * 256 + lo.toNat := by
  have h : (wordOf hi lo).toNat = hi.toNat <<< 8 ||| lo.toNat := BitVec.toNat_append hi lo
  rw [h, Nat.shiftLeft_eq, Nat.mul_comm, ← Nat.two_pow_add_eq_or_of_lt lo.isLt, Nat.mul_comm]

theorem toNat_loByte (w : Addr) : (loByte w).toNat = w.toNat % 256 := by
  simp [loByte, BitVec.extractLsb'_toNat]

theorem toNat_hiByte (w : Addr) : (hiByte w).toNat = w.toNat / 256 := by
  have := w.isLt
  simp only [hiByte, BitVec.extractLsb'_toNat, Nat.shiftRight_eq_div_pow]
  omega

@[simp] theorem loByte_wordOf (hi lo : Byte) : loByte (wordOf hi lo) = lo := by
  apply BitVec.eq_of_toNat_eq
  have := lo.isLt
  rw [toNat_loByte, toNat_wordOf]
  omega

@[simp] theorem hiByte_wordOf (hi lo : Byte) : hiByte (wordOf hi lo) = hi := by
  apply BitVec.eq_of_toNat_eq
  have := lo.isLt
  rw [toNat_hiByte, toNat_wordOf]
  omega

/-- A 16-bit value is its two bytes joined. -/
@[simp] theorem wordOf_bytes (w : Addr) : wordOf (hiByte w) (loByte w) = w := by
  apply BitVec.eq_of_toNat_eq
  rw [toNat_wordOf, toNat_hiByte, toNat_loByte]
  omega

/-- Every row of the opcode table decodes to itself: no opcode byte has two rows (30_encoding.md R75). -/
theorem decodeOpcode_of_mem {e : OpcodeEntry} (h : e ∈ opcodeTable) : decodeOpcode e.opcode = some e := by
  have hall : opcodeTable.all (fun e => decodeOpcode e.opcode == some e) = true := by decide +kernel
  simpa using List.all_eq_true.mp hall e h

/-- What the decoder answers is a row of the table with the opcode asked for. -/
theorem decodeOpcode_spec {op : Byte} {e : OpcodeEntry} (h : decodeOpcode op = some e) :
    e ∈ opcodeTable ∧ e.opcode = op := by
  refine ⟨List.mem_of_find?_eq_some h, ?_⟩
  have := List.find?_some h
  simpa using this

/-- Every row's form is one the rules give. -/
theorem mode_of_mem {e : OpcodeEntry} (h : e ∈ opcodeTable) : e.mnemonic.modes.contains e.mode = true := by
  have hall : opcodeTable.all (fun e => e.mnemonic.modes.contains e.mode) = true := by decide +kernel
  exact List.all_eq_true.mp hall e h

/-- A mnemonic and an operand assemble exactly when the rules give the mnemonic that mode, to an instruction of that
mnemonic and operand. -/
theorem assemble_spec (m : Mnemonic) (o : Operand) :
    (m.modes.contains o.mode = true ∧ ∃ i, assemble m o = some i ∧ i.mnemonic = m ∧ i.operand = o) ∨
      (m.modes.contains o.mode = false ∧ assemble m o = none) := by
  cases o with
  | mem l =>
    cases m <;> cases l <;>
      first
        | exact .inl ⟨rfl, _, rfl, rfl, rfl⟩
        | exact .inr ⟨rfl, rfl⟩
  | _ =>
    cases m <;>
      first
        | exact .inl ⟨rfl, _, rfl, rfl, rfl⟩
        | exact .inr ⟨rfl, rfl⟩

@[simp] theorem mode_operand (md : Mode) (b1 b2 : Byte) : (md.operand b1 b2).mode = md := by cases md <;> rfl

theorem takeOperand_mode {md : Mode} {bytes rest : List Byte} {o : Operand}
    (h : takeOperand md bytes = some (o, rest)) : o.mode = md := by
  unfold takeOperand at h
  split at h <;> simp at h <;> obtain ⟨h1, -⟩ := h <;> subst h1 <;> exact mode_operand _ _ _

/-- An operand taken from the front of a list is read back from its own bytes. -/
theorem takeOperand_bytes (o : Operand) (rest : List Byte) : takeOperand o.mode (o.bytes ++ rest) = some (o, rest) := by
  cases o with
  | mem m => cases m <;> simp [takeOperand, Operand.mode, MemOperand.mode, Mode.length, Operand.bytes, Mode.operand]
  | _ => simp [takeOperand, Operand.mode, Mode.length, Operand.bytes, Mode.operand]

/-- The opcode byte of an instruction decodes to its row. -/
theorem decodeOpcode_opcode (i : Instr) :
    ∃ e, decodeOpcode i.opcode = some e ∧ e.mnemonic = i.mnemonic ∧ e.mode = i.mode := by
  have h := Laws.TableRow.all i
  unfold Laws.TableRow.Statement at h
  cases he : decodeOpcode i.opcode with
  | none => simp [he] at h
  | some e => simp [he] at h; exact ⟨e, rfl, h⟩

end Sys2Proof
end

