-- ==== Sys2Proof/Laws/Step.lean ====
section
/-! SUPPORT. What the fetch gives and what a step can do, said once. -/

namespace Sys2Proof.Machine

/-- Reading bytes changes the count of draws at most. -/
theorem State.readBytes_eq (s : State) (a : Addr) (n : Nat) : ∃ d, (s.readBytes a n).2 = s.setDraws d := by
  induction n generalizing s a with
  | zero => exact ⟨s.draws, rfl⟩
  | succ n ih =>
    obtain ⟨d, hd⟩ := s.afterRead_eq a
    obtain ⟨d', hd'⟩ := ih (s.afterRead a) (a + 1)
    exact ⟨d', by rw [State.readBytes]; dsimp only; rw [hd', hd]; rfl⟩

/-- The fetch changes the count of draws at most (00_scope.md R4). -/
theorem State.fetch_eq (s : State) (pc0 : Addr) : ∃ d, (s.fetch pc0).2 = s.setDraws d := s.readBytes_eq pc0 _

theorem State.readBytes_length (s : State) (a : Addr) (n : Nat) : (s.readBytes a n).1.length = n := by
  induction n generalizing s a with
  | zero => rfl
  | succ n ih => simp [State.readBytes, ih]

/-- Reading storage gives what is stored and leaves the state as it is. -/
theorem State.readBytes_of_peek {s : State} {a : Addr} {l : List Byte}
    (h : ∀ k (hk : k < l.length), s.peek (a + BitVec.ofNat 16 k) = some l[k]) :
    s.readBytes a l.length = (l, s) := by
  induction l generalizing a with
  | nil => rfl
  | cons v l ih =>
    have h0 : s.peek a = some v := by
      have := h 0 (Nat.succ_pos _)
      rwa [show a + BitVec.ofNat 16 0 = a from BitVec.add_zero a] at this
    have hs : s.afterRead a = s := by
      obtain ⟨c, hc, -⟩ := State.peek_eq_some_iff.mp h0
      exact State.afterRead_of_cell hc
    have ht : s.readBytes (a + 1) l.length = (l, s) := by
      refine ih (fun k hk => ?_)
      have := h (k + 1) (by simp [hk])
      rw [show a + 1 + BitVec.ofNat 16 k = a + BitVec.ofNat 16 (k + 1) by
        rw [BitVec.add_assoc, BitVec.ofNat_add, BitVec.add_comm (BitVec.ofNat 16 k)]; rfl]
      exact this
    rw [List.length_cons, State.readBytes, hs, ht, State.busRead_of_peek h0]

/-- The fetched bytes decode to an instruction of the opcode's row, with nothing left over; or the opcode is illegal. -/
theorem decode_fetch (s : State) (pc0 : Addr) :
    (∃ e i, decodeOpcode (s.busRead pc0) = some e ∧ decode (s.fetch pc0).1 = .ok (i, []) ∧
        i.mnemonic = e.mnemonic ∧ i.mode = e.mode) ∨
      (decodeOpcode (s.busRead pc0) = none ∧
        decode (s.fetch pc0).1 = .error (.illegalOpcode (s.busRead pc0))) := by
  cases he : decodeOpcode (s.busRead pc0) with
  | none =>
    refine .inr ⟨rfl, ?_⟩
    have hl : fetchLength (s.busRead pc0) = 1 := by rw [fetchLength, he]
    rw [State.fetch, hl]
    simp [State.readBytes, decode, he]
  | some e =>
    refine .inl ?_
    obtain ⟨hmem, -⟩ := decodeOpcode_spec he
    have hl : fetchLength (s.busRead pc0) = e.mode.length := by rw [fetchLength, he]; rfl
    have htake : ∃ o, takeOperand e.mode (s.fetch pc0).1.tail = some (o, []) := by
      rw [State.fetch, hl]
      cases hmd : e.mode <;> simp [State.readBytes, takeOperand, Mode.length]
    have hcons : (s.fetch pc0).1 = s.busRead pc0 :: (s.fetch pc0).1.tail := by
      rw [State.fetch, hl]
      cases hmd : e.mode <;> simp [State.readBytes, Mode.length]
    obtain ⟨o, ho⟩ := htake
    rcases assemble_spec e.mnemonic o with ⟨-, i, hi, hmn, hop⟩ | ⟨hno, -⟩
    · refine ⟨e, i, rfl, ?_, hmn, ?_⟩
      · rw [hcons]
        simp [decode, he, ho, hi]
      · rw [Instr.mode, hop]
        exact takeOperand_mode ho
    · rw [takeOperand_mode ho, mode_of_mem hmem] at hno
      cases hno

/-- What `runInstruction` does: it runs the decoded instruction, or records the illegal opcode. -/
theorem runInstruction_cases (s : State) :
    (∃ i, decode (s.fetch s.pc).1 = .ok (i, []) ∧ runInstruction s = exec i (s.fetch s.pc).2) ∨
      (decodeOpcode (s.busRead s.pc) = none ∧
        runInstruction s = .next ((s.fetch s.pc).2.raiseDecodeError (s.busRead s.pc) s.pc)) := by
  rcases decode_fetch s s.pc with ⟨e, i, -, hd, -, -⟩ | ⟨he, hd⟩
  · exact .inl ⟨i, hd, by rw [runInstruction, hd]⟩
  · exact .inr ⟨he, by rw [runInstruction, hd]⟩

/-- Everything a step can do (30_encoding.md R79). -/
theorem step_cases (s : State) :
    (∃ f, s.fault = some f ∧ step s = .fault f) ∨
      (s.fault = none ∧ s.event = .nmi ∧ step s = .next s.latchInputs.nmiEntry) ∨
      (s.fault = none ∧ s.event = .irq ∧ step s = .next s.latchInputs.irqEntry) ∨
      (s.fault = none ∧ s.event = .instruction ∧ step s = runInstruction s.latchInputs) := by
  unfold step
  cases hf : s.fault with
  | some f => exact .inl ⟨f, rfl, by simp [State.event, hf]⟩
  | none =>
    refine .inr ?_
    by_cases hn : (s.nmiPending || s.input.nmiEdge) = true
    · exact .inl ⟨rfl, by simp [State.event, hf, hn], by simp [State.event, hf, hn]⟩
    · by_cases hi : (s.input.irqLine && !s.flag .i) = true
      · exact .inr (.inl ⟨rfl, by simp [State.event, hf, hn, hi], by simp [State.event, hf, hn, hi]⟩)
      · exact .inr (.inr ⟨rfl, by simp [State.event, hf, hn, hi], by simp [State.event, hf, hn, hi]⟩)

/-! ### Taking the host input -/

@[simp] theorem HostRest.head_always (i : HostInput) : (HostRest.always i).head = i := rfl
@[simp] theorem HostRest.tail_always (i : HostInput) : (HostRest.always i).tail = .always i := rfl
@[simp] theorem HostRest.head_anything (n : Nat) :
    (HostRest.anything n).head = ⟨Config.nmiEdge n, Config.irqLine n⟩ := rfl
@[simp] theorem HostRest.tail_anything (n : Nat) : (HostRest.anything n).tail = .anything (n + 1) := rfl
@[simp] theorem HostSchedule.head_cons (i : HostInput) (h : HostSchedule) : (h.cons i).head = i := rfl
@[simp] theorem HostSchedule.tail_cons (i : HostInput) (h : HostSchedule) : (h.cons i).tail = h := rfl
@[simp] theorem HostSchedule.head_listed_nil (r : HostRest) : (HostSchedule.mk [] r).head = r.head := rfl
@[simp] theorem HostSchedule.tail_listed_nil (r : HostRest) : (HostSchedule.mk [] r).tail = ⟨[], r.tail⟩ := rfl
@[simp] theorem HostSchedule.head_listed_cons (i : HostInput) (l : List HostInput) (r : HostRest) :
    (HostSchedule.mk (i :: l) r).head = i := rfl
@[simp] theorem HostSchedule.tail_listed_cons (i : HostInput) (l : List HostInput) (r : HostRest) :
    (HostSchedule.mk (i :: l) r).tail = ⟨l, r⟩ := rfl

/-- A schedule after its first `n` inputs. -/
def HostSchedule.drop (h : HostSchedule) : Nat → HostSchedule
  | 0 => h
  | n + 1 => h.tail.drop n

/-- The host may present any sequence of inputs (60_exceptions.md R169): some schedule presents it over the first `n` steps
and, after those, whatever a given rest presents. -/
theorem HostSchedule.presents_any_sequence (f : Nat → HostInput) (r : HostRest) (n : Nat) :
    ∃ h : HostSchedule, (∀ k < n, (h.drop k).head = f k) ∧ h.drop n = ⟨[], r⟩ := by
  induction n generalizing f with
  | zero => exact ⟨⟨[], r⟩, fun _ hk => absurd hk (Nat.not_lt_zero _), rfl⟩
  | succ n ih =>
    obtain ⟨h, hh, hr⟩ := ih (fun k => f (k + 1))
    refine ⟨h.cons (f 0), fun k hk => ?_, hr⟩
    cases k with
    | zero => rfl
    | succ k => exact hh k (by omega)

@[simp] theorem State.latchInputs_a (s : State) : s.latchInputs.a = s.a := rfl
@[simp] theorem State.latchInputs_x (s : State) : s.latchInputs.x = s.x := rfl
@[simp] theorem State.latchInputs_y (s : State) : s.latchInputs.y = s.y := rfl
@[simp] theorem State.latchInputs_sp (s : State) : s.latchInputs.sp = s.sp := rfl
@[simp] theorem State.latchInputs_p (s : State) : s.latchInputs.p = s.p := rfl
@[simp] theorem State.latchInputs_pc (s : State) : s.latchInputs.pc = s.pc := rfl
@[simp] theorem State.latchInputs_cyc (s : State) : s.latchInputs.cyc = s.cyc := rfl
@[simp] theorem State.latchInputs_mem (s : State) : s.latchInputs.mem = s.mem := rfl
@[simp] theorem State.latchInputs_fault (s : State) : s.latchInputs.fault = s.fault := rfl
@[simp] theorem State.latchInputs_cfg (s : State) : s.latchInputs.cfg = s.cfg := rfl
@[simp] theorem State.latchInputs_draws (s : State) : s.latchInputs.draws = s.draws := rfl
@[simp] theorem State.latchInputs_inputs (s : State) : s.latchInputs.inputs = s.inputs.tail := rfl
@[simp] theorem State.latchInputs_nmiPending (s : State) :
    s.latchInputs.nmiPending = (s.nmiPending || s.input.nmiEdge) := rfl
@[simp] theorem State.busRead_latchInputs (s : State) (a : Addr) : s.latchInputs.busRead a = s.busRead a := rfl
@[simp] theorem State.peek_latchInputs (s : State) (a : Addr) : s.latchInputs.peek a = s.peek a := rfl

end Sys2Proof.Machine
end

