-- ==== Sys2Proof/Laws/Entry.lean ====
section
/-! SUPPORT. What the stack holds after a push, a call and an interrupt entry, and what the returns read back. -/

namespace Sys2Proof.Machine

open Sys2Proof.Safety

/-- A boundary runs the instruction at `pc` exactly where none of the other events is taken (60_exceptions.md R171). -/
theorem State.event_eq_instruction_iff (s : State) : s.event = .instruction ↔ RunsInstruction s := by
  unfold State.event RunsInstruction
  cases s.fault <;> cases s.nmiPending <;> cases s.input.nmiEdge <;> cases s.input.irqLine <;> cases s.flag .i <;> simp

/-- A word of the cartridge region is its two bytes (20_memory.md R57, R61). -/
theorem State.read16_of_cartridge {s : State} {a : Addr} (h : 0x8000 ≤ a.toNat) :
    s.read16 a = wordOf (s.busRead (a + 1)) (s.busRead a) := by
  rw [State.read16, State.afterRead_of_cell (cell_cartridge h)]

/-- Three pushes go to three bytes. -/
theorem stack_bytes_differ (sp : Byte) :
    (sp - 1).toNat ≠ sp.toNat ∧ (sp - 1 - 1).toNat ≠ sp.toNat ∧ (sp - 1 - 1).toNat ≠ (sp - 1).toNat := by
  revert sp
  decide +kernel

theorem sub_two (sp : Byte) : sp - 2 = sp - 1 - 1 := by bv_omega

theorem sub_three (sp : Byte) : sp - 3 = sp - 1 - 1 - 1 := by bv_omega

theorem sub_add_cancel_byte (sp : Byte) : sp - 1 + 1 = sp := by bv_omega

/-- The byte of a stack address. -/
theorem State.peek_stackAddr (s : State) (sp : Byte) : s.peek (stackAddr sp) = some (s.mem.read (256 + sp.toNat)) := by
  rw [State.peek, cell_stackAddr, Option.map_some]

theorem State.read_push_same {s : State} (hm : s.mem.wf = true) (v : Byte) :
    (s.push v).mem.read (256 + s.sp.toNat) = v := by
  rw [State.push_mem, Memory.read_write_same hm]

/-- The two bytes a 16-bit push leaves (20_memory.md R60). -/
theorem State.read_push16 {s : State} (hm : s.mem.wf = true) (w : Addr) :
    (s.push16 w).mem.read (256 + s.sp.toNat) = hiByte w ∧
      (s.push16 w).mem.read (256 + (s.sp - 1).toNat) = loByte w := by
  have h1 := (stack_bytes_differ s.sp).1
  have b0 := s.sp.isLt
  have w1 := Memory.write_wf hm (c := 256 + s.sp.toNat) (by omega) (hiByte w)
  rw [State.push16_mem]
  exact ⟨by rw [Memory.read_write_other _ _ (by omega), Memory.read_write_same hm], by rw [Memory.read_write_same w1]⟩

/-- Two writes to the stack leave every address but theirs as it was. -/
theorem State.peek_push16_other {s : State} (w : Addr) {a : Addr} (h1 : cell s.cfg a ≠ cell s.cfg (stackAddr s.sp))
    (h2 : cell s.cfg a ≠ cell s.cfg (stackAddr (s.sp - 1))) : (s.push16 w).peek a = s.peek a := by
  rw [State.push16, State.peek_push_other _ (by simpa using h2), State.peek_push_other _ h1]

/-- The three bytes an entry leaves on the stack (60_exceptions.md R172 to R174). -/
theorem State.read_enterInterrupt {s : State} (hm : s.mem.wf = true) (ret vector : Addr) (i : Bool) :
    (s.enterInterrupt ret vector i).mem.read (256 + s.sp.toNat) = hiByte ret ∧
      (s.enterInterrupt ret vector i).mem.read (256 + (s.sp - 1).toNat) = loByte ret ∧
      (s.enterInterrupt ret vector i).mem.read (256 + (s.sp - 1 - 1).toNat) = s.readP := by
  obtain ⟨h1, h2, h3⟩ := stack_bytes_differ s.sp
  have b0 := s.sp.isLt
  have b1 := (s.sp - 1).isLt
  have w1 := Memory.write_wf hm (c := 256 + s.sp.toNat) (by omega) (hiByte ret)
  have w2 := Memory.write_wf w1 (c := 256 + (s.sp - 1).toNat) (by omega) (loByte ret)
  rw [State.enterInterrupt_mem]
  refine ⟨?_, ?_, ?_⟩
  · rw [Memory.read_write_other _ _ (by omega), Memory.read_write_other _ _ (by omega), Memory.read_write_same hm]
  · rw [Memory.read_write_other _ _ (by omega), Memory.read_write_same w1]
  · rw [Memory.read_write_same w2]

/-- An entry leaves every address but the three of its stack bytes as it was. -/
theorem State.peek_enterInterrupt_other (s : State) (ret vector : Addr) (i : Bool) :
    SameMemoryBut [stackAddr s.sp, stackAddr (s.sp - 1), stackAddr (s.sp - 2)] s (s.enterInterrupt ret vector i) := by
  intro a ha
  simp only [List.mem_cons, List.not_mem_nil, or_false, forall_eq_or_imp, forall_eq] at ha
  obtain ⟨ha1, ha2, ha3⟩ := ha
  rw [sub_two] at ha3
  have h : (s.enterInterrupt ret vector i).peek a = ((s.push16 ret).push s.readP).peek a :=
    State.peek_congr (by simp) (by simp) a
  rw [h, State.peek_push_other _ (by simpa using ha3), State.peek_push16_other _ ha1 ha2]

/-- What the return from an interrupt does (47_jump_call_return.md R144). -/
theorem State.returnFromInterrupt_eq (s : State) :
    s.returnFromInterrupt =
      ((s.writeP (s.mem.read (256 + (s.sp + 1).toNat))).setSP (s.sp + 1 + 1 + 1)).setPC
        (wordOf (s.mem.read (256 + (s.sp + 1 + 1 + 1).toNat)) (s.mem.read (256 + (s.sp + 1 + 1).toNat))) := by
  simp only [State.returnFromInterrupt, State.pull_fst, State.pull_snd, State.pull16_fst, State.pull16_snd]
  rfl

/-- The return reads memory and the stack pointer: from a state with those of an entry it gives back the address, the
status and the stack pointer of before the entry (60_exceptions.md R177). -/
theorem State.returnFromInterrupt_after_entry {s t : State} (hm : s.mem.wf = true) {ret vector : Addr} {i : Bool}
    (h1 : t.mem = (s.enterInterrupt ret vector i).mem) (h2 : t.sp = s.sp - 1 - 1 - 1) :
    t.returnFromInterrupt = ((t.setP s.readP).setSP s.sp).setPC ret := by
  obtain ⟨m1, m2, m3⟩ := State.read_enterInterrupt hm ret vector i
  have hw : writeStatus s.readP = s.readP := by
    simp [writeStatus, State.readP, readStatus, BitVec.or_assoc]
  have c1 : t.sp + 1 = s.sp - 1 - 1 := by rw [h2, sub_add_cancel_byte]
  have c2 : t.sp + 1 + 1 = s.sp - 1 := by rw [c1, sub_add_cancel_byte]
  have c3 : t.sp + 1 + 1 + 1 = s.sp := by rw [c2, sub_add_cancel_byte]
  rw [State.returnFromInterrupt_eq, c3, c2, c1, h1, m1, m2, m3, wordOf_bytes, State.writeP, hw]

/-! ### One lemma per field of the two entries -/

theorem State.irqEntry_eq (s : State) : s.irqEntry = (s.enterInterrupt s.pc irqVector true).setCyc 7 := rfl

theorem State.nmiEntry_eq (s : State) :
    s.nmiEntry = ((s.enterInterrupt s.pc nmiVector false).setNmiPending false).setCyc 8 := rfl

end Sys2Proof.Machine
end

