-- ==== Sys2Proof/Laws/Operands.lean ====
section
/-! SUPPORT. What the address-mode resolver computes, as numbers, and the frame of the shapes of the instruction classes. -/

namespace Sys2Proof.Machine

open Sys2Proof.Safety

/-! ### Addresses as numbers -/

theorem toNat_add_ofNat (a : Addr) (n : Nat) : (a + BitVec.ofNat 16 n).toNat = (a.toNat + n) % 65536 := by
  rw [BitVec.toNat_add, BitVec.toNat_ofNat]
  omega

/-- The page of an address is its high byte (30_encoding.md R90). -/
theorem toNat_page (a : Addr) : (a &&& 0xFF00).toNat = a.toNat / 256 * 256 := by
  have h : a &&& (0xFF00 : Addr) = (a >>> 8) <<< 8 := by
    apply BitVec.eq_of_getLsbD_eq
    intro i hi
    interval_cases i <;> simp
  have hlt := a.isLt
  have e : (a &&& 0xFF00 : Addr) = a &&& (0xFF00 : Addr) := rfl
  rw [e, h, BitVec.toNat_shiftLeft, BitVec.toNat_ushiftRight, Nat.shiftRight_eq_div_pow, Nat.shiftLeft_eq]
  omega

theorem pageDiffers_eq (a b : Addr) : pageDiffers a b = decide (a.toNat / 256 ≠ b.toNat / 256) := by
  unfold pageDiffers
  rw [bne, Bool.eq_iff_iff]
  simp only [Bool.not_eq_true', beq_eq_false_iff_ne, decide_eq_true_eq, ne_eq, ← BitVec.toNat_inj, toNat_page]
  omega

@[simp] theorem pageDiffers_self (a : Addr) : pageDiffers a a = false := by simp [pageDiffers]

/-- The displacement of a branch as a signed number (00_scope.md R17). -/
theorem toNat_sext16 (d : Byte) : ((sext16 d).toNat : Int) = d.toInt % 65536 := by
  revert d
  decide +kernel

theorem zeroPage_eq (z : Byte) : zeroPage z = BitVec.ofNat 16 z.toNat := by
  apply BitVec.eq_of_toNat_eq
  have := z.isLt
  rw [zeroPage, toNat_zeroPage, BitVec.toNat_ofNat]
  omega

theorem wordOf_eq (hi lo : Byte) : wordOf hi lo = BitVec.ofNat 16 (hi.toNat * 256 + lo.toNat) := by
  apply BitVec.eq_of_toNat_eq
  have := hi.isLt
  have := lo.isLt
  rw [toNat_wordOf, BitVec.toNat_ofNat]
  omega

theorem add_index_eq (a : Addr) (v : Byte) : a + v.setWidth 16 = BitVec.ofNat 16 (a.toNat + v.toNat) := by
  apply BitVec.eq_of_toNat_eq
  rw [BitVec.toNat_add, toNat_zeroPage, BitVec.toNat_ofNat]

/-- A pointer in the zero page is its two bytes, the high one's address wrapping within the page
(30_encoding.md R93, R94). -/
theorem State.zeroPagePointer_of_peek {s : State} {t lo hi : Byte} (h1 : s.peek (zeroPage t) = some lo)
    (h2 : s.peek (zeroPage (t + 1)) = some hi) : s.zeroPagePointer t = wordOf hi lo := by
  rw [State.zeroPagePointer, State.busRead_of_peek h1, State.busRead_of_peek h2]

/-! ### Operands in the words of the statements -/

@[simp] theorem operandByte_imm (s : State) (v : Byte) : operandByte s (.imm v) = v := rfl
@[simp] theorem operandByte_acc (s : State) : operandByte s .acc = s.a := rfl
@[simp] theorem operandByte_mem (s : State) (m : MemOperand) : operandByte s (.mem m) = s.busRead (s.ea m) := rfl
@[simp] theorem effectiveAddr_mem (s : State) (m : MemOperand) : effectiveAddr s (.mem m) = s.ea m := rfl

/-! ### Stores -/

/-- What a bus write of a state with the same memory stores, in the words of the statements. -/
theorem stores_busWrite {s u : State} (hm : s.mem.wf = true) (hmem : u.mem = s.mem) (hcfg : u.cfg = s.cfg) (ea : Addr)
    (v : Byte) : Stores ea v s (u.busWrite ea v) := by
  have hp : ∀ b, u.peek b = s.peek b := State.peek_congr hcfg hmem
  refine ⟨fun b hb => ?_, fun b hb => ?_⟩
  · rw [State.peek_busWrite_other v (by rw [hcfg]; exact hb ea (by simp)), hp]
  · split
    · rename_i hst
      simp only [storable, Bool.and_eq_true, Bool.or_eq_true, decide_eq_true_eq, beq_iff_eq] at hst
      refine State.peek_busWrite_same (by rw [hmem]; exact hm) (by rw [hcfg]; exact hb) ?_ (by rw [hcfg]; exact hst.2)
      rw [Ne, cell_eq_none_iff]
      omega
    · rename_i hst
      rw [State.busWrite_eq]
      cases hc : cell u.cfg ea with
      | none => exact hp b
      | some c =>
        have hn : ¬ (0x2000 ≤ ea.toNat ∧ ea.toNat < 0x4000) := by
          rw [← cell_eq_none_iff (cfg := u.cfg), hc]
          simp
        simp only [storable, Bool.and_eq_true, Bool.or_eq_true, decide_eq_true_eq, beq_iff_eq] at hst
        dsimp only
        cases hw : s.cfg.mapper0Write <;> simp only [hw, hcfg, reduceCtorEq, or_false, or_true, and_true] at hst ⊢
        · omega
        · rw [if_pos (by omega)]
          exact hp b

end Sys2Proof.Machine
end

