-- ==== Sys2Proof/Laws/Loader.lean ====
section
/-! SUPPORT. What a load stores, and that a disassembly pass changes the count of draws at most. -/

namespace Sys2Proof.Machine

/-- Copying bytes inside the array keeps the canonical form. -/
theorem copyBytes_wf {m : Memory} (hm : m.wf = true) {base : Nat} {l : List Byte} (h : base + l.length ≤ 65536) :
    (copyBytes m base l).wf = true := by
  induction l generalizing m base with
  | nil => exact hm
  | cons v l ih =>
    rw [List.length_cons] at h
    exact ih (Memory.write_wf hm (by omega) v) (by omega)

/-- A cell outside the copy is as it was. -/
theorem read_copyBytes_other (m : Memory) {base c : Nat} {l : List Byte} (h : c < base ∨ base + l.length ≤ c) :
    (copyBytes m base l).read c = m.read c := by
  induction l generalizing m base with
  | nil => rfl
  | cons v l ih =>
    rw [List.length_cons] at h
    rw [copyBytes, ih _ (by omega), Memory.read_write_other _ _ (by omega)]

/-- A cell of the copy holds its byte. -/
theorem read_copyBytes {m : Memory} (hm : m.wf = true) {base k : Nat} {l : List Byte} (hk : k < l.length)
    (h : base + l.length ≤ 65536) : (copyBytes m base l).read (base + k) = l[k] := by
  induction l generalizing m base k with
  | nil => exact absurd hk (by simp)
  | cons v l ih =>
    rw [List.length_cons] at h hk
    cases k with
    | zero => rw [copyBytes, read_copyBytes_other _ (by omega), Nat.add_zero, Memory.read_write_same hm]; rfl
    | succ k =>
      have := ih (Memory.write_wf hm (c := base) (by omega) v) (base := base + 1) (k := k) (by omega) (by omega)
      rw [copyBytes, show base + (k + 1) = base + 1 + k by omega, this]
      rfl

/-- A disassembly pass changes the count of draws at most (30_encoding.md R100). -/
theorem disassembleFrom_after (s : State) (a hi fuel : Nat) : ∃ d, (s.disassembleFrom a hi fuel).after = s.setDraws d := by
  induction fuel generalizing s a with
  | zero => exact ⟨s.draws, rfl⟩
  | succ fuel ih =>
    obtain ⟨d, hd⟩ := s.fetch_eq (BitVec.ofNat 16 a)
    rw [State.disassembleFrom]
    split
    · exact ⟨s.draws, rfl⟩
    · dsimp only
      split
      · exact ⟨d, hd⟩
      · obtain ⟨d', hd'⟩ := ih (s.fetch (BitVec.ofNat 16 a)).2 (a + (s.fetch (BitVec.ofNat 16 a)).1.length)
        exact ⟨d', by dsimp only; rw [hd', hd]; rfl⟩

end Sys2Proof.Machine
end

