-- ==== Sys2Proof/Laws/Run.lean ====
section
/-! SUPPORT. What a step of a run does, said once (70_reset_and_hazards.md R194). -/

namespace Sys2Proof.Machine

@[simp] theorem State.steps_zero (s : State) : s.steps 0 = some s := rfl

theorem State.steps_succ {s t : State} (h : step s = .next t) (n : Nat) : s.steps (n + 1) = t.steps n := by
  rw [State.steps, h]

/-- A state with a fault recorded takes no step (10_state.md R37). -/
theorem State.steps_succ_of_fault {s : State} {f : Fault} (h : s.fault = some f) (n : Nat) : s.steps (n + 1) = none := by
  have hs : step s = .fault f := by simp [step, State.event, h]
  rw [State.steps, hs]

theorem State.holdsSelfJump_iff (s : State) (stop : Addr) :
    s.holdsSelfJump stop = true ↔ Safety.HoldsSelfJump stop s := by
  simp [State.holdsSelfJump, Safety.HoldsSelfJump, and_assoc]

/-- What a boundary says of a run: its fault, its end, or that it goes on. -/
theorem State.runEnd_cases (s : State) (stop : Addr) :
    (∃ f, s.fault = some f ∧ s.runEnd stop = .failed f) ∨
      (s.fault = none ∧ s.atStop stop = true ∧ s.runEnd stop = .ended s) ∨
      (s.fault = none ∧ s.atStop stop = false ∧ s.runEnd stop = .going s) := by
  unfold State.runEnd
  cases s.fault with
  | some f => exact .inl ⟨f, rfl, rfl⟩
  | none => cases h : s.atStop stop <;> simp

@[simp] theorem State.runTo_zero (s : State) (stop : Addr) : s.runTo stop 0 = s.runEnd stop := rfl

/-- A run that has ended or failed stays as it is, whatever its fuel. -/
theorem State.runTo_of_runEnd {s : State} {stop : Addr} (h : s.runEnd stop ≠ .going s) (n : Nat) :
    s.runTo stop n = s.runEnd stop := by
  cases n with
  | zero => rfl
  | succ n =>
    rw [State.runTo]
    rcases s.runEnd_cases stop with ⟨f, -, hr⟩ | ⟨-, -, hr⟩ | ⟨-, -, hr⟩
    · rw [hr]
    · rw [hr]
    · exact absurd hr h

/-- A run that goes on takes a step. -/
theorem State.runTo_succ {s t : State} {stop : Addr} (h : s.runEnd stop = .going s) (ht : step s = .next t) (n : Nat) :
    s.runTo stop (n + 1) = t.runTo stop n := by
  rw [State.runTo, h, ht]

end Sys2Proof.Machine
end

