-- ==== Sys2Proof/Laws/Shapes.lean ====
section
/-! SUPPORT. What exec answers for each class of instructions, said once per class (30_encoding.md R96, R97). -/

namespace Sys2Proof.Machine

open Sys2Proof.Safety

/-- The effect of a `read` instruction on its operand. -/
def readEffect : Mnemonic → Option (Byte → State → State)
  | .lda => some ldaEffect
  | .ldx => some ldxEffect
  | .ldy => some ldyEffect
  | .adc => some adcEffect
  | .sbc => some sbcEffect
  | .and => some andEffect
  | .ora => some oraEffect
  | .eor => some eorEffect
  | .bit => some bitEffect
  | .cmp => some cmpEffect
  | .cpx => some cpxEffect
  | .cpy => some cpyEffect
  | _ => none

/-- The register a `write` instruction stores. -/
def storedRegister : Mnemonic → Option (State → Byte)
  | .sta => some State.a
  | .stx => some State.x
  | .sty => some State.y
  | _ => none

/-- The result and the flags of a `rmw` instruction on its operand. -/
def rmwEffect : Mnemonic → Option (Byte → State → Byte × State)
  | .asl => some aslEffect
  | .lsr => some lsrEffect
  | .rol => some rolEffect
  | .ror => some rorEffect
  | .inc => some incEffect
  | .dec => some decEffect
  | _ => none

/-- The flags follow a result where they were set from it (10_state.md R35). -/
theorem followsNZ_of_setNZ {t : State} {p r : Byte} (h : t.p = setNZ p r) : FollowsNZ r t := by
  refine ⟨?_, ?_⟩
  · rw [State.flag, h, getFlag_setNZ]
    simp
  · rw [State.flag, h, getFlag_setNZ]
    simp [BitVec.msb_eq_getLsbD_last]

theorem mem_of_lookup {rows : List (Byte × Mode)} {op : Byte} {md : Mode} (h : rows.lookup op = some md) :
    (op, md) ∈ rows := by
  induction rows with
  | nil => cases h
  | cons p rows ih =>
    obtain ⟨k, v⟩ := p
    rw [List.lookup_cons] at h
    by_cases hk : op = k
    · subst hk
      simp at h
      simp [h]
    · have : (op == k) = false := by simpa using hk
      rw [this] at h
      exact List.mem_cons_of_mem _ (ih h)

/-- The opcode bytes of a mnemonic, checked row by row of the opcode table. -/
theorem encodedBy_of_check {m : Mnemonic} {rows : List (Byte × Mode)}
    (h : (opcodeTable.all (fun e => rows.lookup e.opcode == if e.mnemonic = m then some e.mode else none) &&
      rows.all (fun p => opcodeTable.any (fun e => e.opcode == p.1))) = true) : EncodedBy m rows := by
  rw [Bool.and_eq_true, List.all_eq_true, List.all_eq_true] at h
  obtain ⟨h1, h2⟩ := h
  intro op
  cases hd : decodeOpcode op with
  | some e =>
    obtain ⟨hmem, rfl⟩ := decodeOpcode_spec hd
    exact (beq_iff_eq.mp (h1 e hmem)).symm
  | none =>
    cases hr : rows.lookup op with
    | none => rfl
    | some md =>
      obtain ⟨e, hmem, he⟩ := List.any_eq_true.mp (h2 (op, md) (mem_of_lookup hr))
      have := decodeOpcode_of_mem hmem
      rw [beq_iff_eq.mp he, hd] at this
      cases this

/-- What the shape of a `read` instruction on memory answers. -/
theorem readMem_eq (op : Byte → State → State) (base : Nat) (m : MemOperand) (s : State) :
    ∃ d, readMem op base m s =
      .next ((op (operandByte s (.mem m)) ((s.setDraws d).advance m.mode.length)).setCyc
        (base + if s.pageCrossed m then 1 else 0)) := by
  obtain ⟨d, hd⟩ := s.afterRead_eq (s.ea m)
  exact ⟨d, by rw [readMem, hd]; rfl⟩

/-- What the shape of a `rmw` instruction on memory answers. -/
theorem rmwMem_eq (op : Byte → State → Byte × State) (base : Nat) (m : MemOperand) (s : State) :
    ∃ d, rmwMem op base m s =
      .next (((op (operandByte s (.mem m)) ((s.setDraws d).advance m.mode.length)).2.busWrite (effectiveAddr s (.mem m))
        (op (operandByte s (.mem m)) ((s.setDraws d).advance m.mode.length)).1).setCyc base) := by
  obtain ⟨d, hd⟩ := s.afterRead_eq (s.ea m)
  exact ⟨d, by rw [rmwMem, hd]; rfl⟩

/-- A `read` instruction answers its effect on the operand byte, from a state that is past the instruction and has taken
the operand's draw if it takes one. -/
theorem exec_read {i : Instr} {op : Byte → State → State} (h : readEffect i.mnemonic = some op) (s : State) :
    ∃ d c, exec i s = .next ((op (operandByte s i.operand) ((s.setDraws d).advance i.mode.length)).setCyc c) := by
  cases i <;> first | (cases h; done) | skip
  all_goals
    injection h with h
    subst h
    first
      | exact ⟨s.draws, _, rfl⟩
      | (obtain ⟨d, hd⟩ := readMem_eq _ _ _ s
         exact ⟨d, _, hd⟩)

/-- A `write` instruction stores its register at the effective address. -/
theorem exec_store {i : Instr} {src : State → Byte} (h : storedRegister i.mnemonic = some src) (s : State) :
    ∃ c, exec i s =
      .next (((s.advance i.mode.length).busWrite (effectiveAddr s i.operand) (src s)).setCyc c) := by
  cases i <;> first | (cases h; done) | skip
  all_goals
    injection h with h
    subst h
    exact ⟨_, rfl⟩

/-- A `rmw` instruction on memory reads its operand, then stores its result where the operand is. -/
theorem exec_rmw {i : Instr} {op : Byte → State → Byte × State} (h : rmwEffect i.mnemonic = some op)
    (hacc : i.mode ≠ .acc) (s : State) :
    ∃ d c, exec i s =
      .next (((op (operandByte s i.operand) ((s.setDraws d).advance i.mode.length)).2.busWrite
        (effectiveAddr s i.operand)
        (op (operandByte s i.operand) ((s.setDraws d).advance i.mode.length)).1).setCyc c) := by
  cases i <;> first | (cases h; done) | skip
  all_goals
    injection h with h
    subst h
    first
      | exact absurd rfl hacc
      | (obtain ⟨d, hd⟩ := rmwMem_eq _ _ _ s
         exact ⟨d, _, hd⟩)

/-- A `rmw` instruction on the accumulator. -/
theorem exec_rmw_acc {i : Instr} {op : Byte → State → Byte × State} (h : rmwEffect i.mnemonic = some op)
    (hacc : i.mode = .acc) (s : State) :
    ∃ c, exec i s = .next (((op s.a (s.advance i.mode.length)).2.setA (op s.a (s.advance i.mode.length)).1).setCyc c) := by
  cases i <;> first | (cases h; done) | skip
  all_goals
    injection h with h
    subst h
    first
      | exact ⟨_, rfl⟩
      | cases hacc

/-- A branch goes where its condition says (46_branch.md R132). -/
theorem exec_branch {i : Instr} {d : Byte} (h : i.operand = .rel d) (s : State) :
    exec i s = branchIf (branchTaken i.mnemonic) d s := by
  cases i <;> first | (cases h; done) | skip
  all_goals
    injection h with h
    subst h
    rfl

end Sys2Proof.Machine
end

