-- ==== Sys2Proof/Tests/Slice0.lean ====
section
/-! SUPPORT. The model's own tests, each about one step or one definition, with expected results from the spec
(30_encoding.md R76 and the "Encoding" lines for the words; 95_test_vectors.md for the rest), and for each statement with
hypotheses a witness that meets them. -/

namespace Sys2Proof.Tests

set_option Elab.async false

open Sys2Proof.Machine Sys2Proof.Safety

/-! ### Helpers -/

/-- The start state of 95_test_vectors.md: the state after reset, with the program at $8000. -/
def start : State := { State.reset with pc := 0x8000, cfg := { State.reset.cfg with resetPcMode := .fixed8000 } }

/-- Place bytes in storage. -/
def put (l : List (Addr × Byte)) (s : State) : State := l.foldl (fun s p => s.place p.1 p.2) s

/-- Place bytes at rising addresses. -/
def putBytes (a : Addr) : List Byte → State → State
  | [], s => s
  | v :: l, s => putBytes (a + 1) l (s.place a v)

/-- Place an instruction at an address and point `pc` at it. -/
def code (a : Addr) (l : List Byte) (s : State) : State := { putBytes a l s with pc := a }

/-- The NMI and IRQ vectors of 95_test_vectors.md, section 4. -/
def vectors : State → State := put [(0xBFFA, 0x00), (0xBFFB, 0xA0), (0xBFFE, 0x00), (0xBFFF, 0x90)]

/-- The next state of an outcome; a state no test accepts where there is none. -/
def after : Result → State
  | .next t => t
  | _ => { State.reset with cyc := 99 }

/-- The state after one step. -/
def ran (s : State) : State := after (step s)

/-- Each byte list decodes to its instruction, with one byte more left over. -/
def decodes (l : List (List Byte × Instr)) : Bool :=
  l.all fun p => match decode (p.1 ++ [0xEA]) with
    | .ok (i, rest) => i == p.2 && rest == [0xEA]
    | .error _ => false


/-! ### Decoding -/

/-- 40_load_store.md, bit by bit from the "Encoding" lines. -/
theorem test_decode_load_store_1 : decodes [
    ([0b10000001, 0x34], .staIzx 0x34), ([0b10000100, 0x34], .styZp 0x34), ([0b10000101, 0x34], .staZp 0x34),
    ([0b10000110, 0x34], .stxZp 0x34), ([0b10001100, 0x34, 0x12], .styAbs 0x1234),
    ([0b10001101, 0x34, 0x12], .staAbs 0x1234),
    ([0b10001110, 0x34, 0x12], .stxAbs 0x1234), ([0b10010001, 0x34], .staIzy 0x34), ([0b10010100, 0x34], .styZpx 0x34),
    ([0b10010101, 0x34], .staZpx 0x34), ([0b10010110, 0x34], .stxZpy 0x34),
    ([0b10011001, 0x34, 0x12], .staAbsy 0x1234)] = true := by decide +kernel

/-- 40_load_store.md, bit by bit from the "Encoding" lines. -/
theorem test_decode_load_store_2 : decodes [
    ([0b10011101, 0x34, 0x12], .staAbsx 0x1234), ([0b10100000, 0x34], .ldyImm 0x34), ([0b10100001, 0x34], .ldaIzx 0x34),
    ([0b10100010, 0x34], .ldxImm 0x34), ([0b10100100, 0x34], .ldyZp 0x34), ([0b10100101, 0x34], .ldaZp 0x34),
    ([0b10100110, 0x34], .ldxZp 0x34), ([0b10101001, 0x34], .ldaImm 0x34), ([0b10101100, 0x34, 0x12], .ldyAbs 0x1234),
    ([0b10101101, 0x34, 0x12], .ldaAbs 0x1234), ([0b10101110, 0x34, 0x12], .ldxAbs 0x1234),
    ([0b10110001, 0x34], .ldaIzy 0x34)] = true := by decide +kernel

/-- 40_load_store.md, bit by bit from the "Encoding" lines. -/
theorem test_decode_load_store_3 : decodes [
    ([0b10110100, 0x34], .ldyZpx 0x34), ([0b10110101, 0x34], .ldaZpx 0x34), ([0b10110110, 0x34], .ldxZpy 0x34),
    ([0b10111001, 0x34, 0x12], .ldaAbsy 0x1234), ([0b10111100, 0x34, 0x12], .ldyAbsx 0x1234),
    ([0b10111101, 0x34, 0x12], .ldaAbsx 0x1234),
    ([0b10111110, 0x34, 0x12], .ldxAbsy 0x1234)] = true := by decide +kernel

/-- 41_arithmetic.md, bit by bit from the "Encoding" lines. -/
theorem test_decode_arithmetic_1 : decodes [
    ([0b01100001, 0x34], .adcIzx 0x34), ([0b01100101, 0x34], .adcZp 0x34), ([0b01101001, 0x34], .adcImm 0x34),
    ([0b01101101, 0x34, 0x12], .adcAbs 0x1234), ([0b01110001, 0x34], .adcIzy 0x34), ([0b01110101, 0x34], .adcZpx 0x34),
    ([0b01111001, 0x34, 0x12], .adcAbsy 0x1234), ([0b01111101, 0x34, 0x12], .adcAbsx 0x1234),
    ([0b11100001, 0x34], .sbcIzx 0x34),
    ([0b11100101, 0x34], .sbcZp 0x34), ([0b11101001, 0x34], .sbcImm 0x34),
    ([0b11101101, 0x34, 0x12], .sbcAbs 0x1234)] = true := by decide +kernel

/-- 41_arithmetic.md, bit by bit from the "Encoding" lines. -/
theorem test_decode_arithmetic_2 : decodes [
    ([0b11110001, 0x34], .sbcIzy 0x34), ([0b11110101, 0x34], .sbcZpx 0x34), ([0b11111001, 0x34, 0x12], .sbcAbsy 0x1234),
    ([0b11111101, 0x34, 0x12], .sbcAbsx 0x1234)] = true := by decide +kernel

/-- 42_logical.md, bit by bit from the "Encoding" lines. -/
theorem test_decode_logical_1 : decodes [
    ([0b00000001, 0x34], .oraIzx 0x34), ([0b00000101, 0x34], .oraZp 0x34), ([0b00001001, 0x34], .oraImm 0x34),
    ([0b00001101, 0x34, 0x12], .oraAbs 0x1234), ([0b00010001, 0x34], .oraIzy 0x34), ([0b00010101, 0x34], .oraZpx 0x34),
    ([0b00011001, 0x34, 0x12], .oraAbsy 0x1234), ([0b00011101, 0x34, 0x12], .oraAbsx 0x1234),
    ([0b00100001, 0x34], .andIzx 0x34),
    ([0b00100100, 0x34], .bitZp 0x34), ([0b00100101, 0x34], .andZp 0x34),
    ([0b00101001, 0x34], .andImm 0x34)] = true := by decide +kernel

/-- 42_logical.md, bit by bit from the "Encoding" lines. -/
theorem test_decode_logical_2 : decodes [
    ([0b00101100, 0x34, 0x12], .bitAbs 0x1234), ([0b00101101, 0x34, 0x12], .andAbs 0x1234),
    ([0b00110001, 0x34], .andIzy 0x34),
    ([0b00110101, 0x34], .andZpx 0x34), ([0b00111001, 0x34, 0x12], .andAbsy 0x1234),
    ([0b00111101, 0x34, 0x12], .andAbsx 0x1234),
    ([0b01000001, 0x34], .eorIzx 0x34), ([0b01000101, 0x34], .eorZp 0x34), ([0b01001001, 0x34], .eorImm 0x34),
    ([0b01001101, 0x34, 0x12], .eorAbs 0x1234), ([0b01010001, 0x34], .eorIzy 0x34),
    ([0b01010101, 0x34], .eorZpx 0x34)] = true := by decide +kernel

/-- 42_logical.md, bit by bit from the "Encoding" lines. -/
theorem test_decode_logical_3 : decodes [
    ([0b01011001, 0x34, 0x12], .eorAbsy 0x1234), ([0b01011101, 0x34, 0x12], .eorAbsx 0x1234),
    ] = true := by decide +kernel

/-- 43_shift_rotate.md, bit by bit from the "Encoding" lines. -/
theorem test_decode_shift_rotate_1 : decodes [
    ([0b00000110, 0x34], .aslZp 0x34), ([0b00001010], .aslAcc), ([0b00001110, 0x34, 0x12], .aslAbs 0x1234),
    ([0b00010110, 0x34], .aslZpx 0x34), ([0b00011110, 0x34, 0x12], .aslAbsx 0x1234), ([0b00100110, 0x34], .rolZp 0x34),
    ([0b00101010], .rolAcc), ([0b00101110, 0x34, 0x12], .rolAbs 0x1234), ([0b00110110, 0x34], .rolZpx 0x34),
    ([0b00111110, 0x34, 0x12], .rolAbsx 0x1234), ([0b01000110, 0x34], .lsrZp 0x34),
    ([0b01001010], .lsrAcc)] = true := by decide +kernel

/-- 43_shift_rotate.md, bit by bit from the "Encoding" lines. -/
theorem test_decode_shift_rotate_2 : decodes [
    ([0b01001110, 0x34, 0x12], .lsrAbs 0x1234), ([0b01010110, 0x34], .lsrZpx 0x34),
    ([0b01011110, 0x34, 0x12], .lsrAbsx 0x1234),
    ([0b01100110, 0x34], .rorZp 0x34), ([0b01101010], .rorAcc), ([0b01101110, 0x34, 0x12], .rorAbs 0x1234),
    ([0b01110110, 0x34], .rorZpx 0x34), ([0b01111110, 0x34, 0x12], .rorAbsx 0x1234)] = true := by decide +kernel

/-- 44_compare.md, bit by bit from the "Encoding" lines. -/
theorem test_decode_compare_1 : decodes [
    ([0b11000000, 0x34], .cpyImm 0x34), ([0b11000001, 0x34], .cmpIzx 0x34), ([0b11000100, 0x34], .cpyZp 0x34),
    ([0b11000101, 0x34], .cmpZp 0x34), ([0b11001001, 0x34], .cmpImm 0x34), ([0b11001100, 0x34, 0x12], .cpyAbs 0x1234),
    ([0b11001101, 0x34, 0x12], .cmpAbs 0x1234), ([0b11010001, 0x34], .cmpIzy 0x34), ([0b11010101, 0x34], .cmpZpx 0x34),
    ([0b11011001, 0x34, 0x12], .cmpAbsy 0x1234), ([0b11011101, 0x34, 0x12], .cmpAbsx 0x1234),
    ([0b11100000, 0x34], .cpxImm 0x34)] = true := by decide +kernel

/-- 44_compare.md, bit by bit from the "Encoding" lines. -/
theorem test_decode_compare_2 : decodes [
    ([0b11100100, 0x34], .cpxZp 0x34), ([0b11101100, 0x34, 0x12], .cpxAbs 0x1234)] = true := by decide +kernel

/-- 45_inc_dec.md, bit by bit from the "Encoding" lines. -/
theorem test_decode_inc_dec : decodes [
    ([0b10001000], .dey), ([0b11000110, 0x34], .decZp 0x34), ([0b11001000], .iny),
    ([0b11001010], .dex), ([0b11001110, 0x34, 0x12], .decAbs 0x1234), ([0b11010110, 0x34], .decZpx 0x34),
    ([0b11011110, 0x34, 0x12], .decAbsx 0x1234), ([0b11100110, 0x34], .incZp 0x34), ([0b11101000], .inx),
    ([0b11101110, 0x34, 0x12], .incAbs 0x1234), ([0b11110110, 0x34], .incZpx 0x34),
    ([0b11111110, 0x34, 0x12], .incAbsx 0x1234)] = true := by decide +kernel

/-- 46_branch.md, bit by bit from the "Encoding" lines. -/
theorem test_decode_branch : decodes [
    ([0b00010000, 0x34], .bpl 0x34), ([0b00110000, 0x34], .bmi 0x34), ([0b01010000, 0x34], .bvc 0x34),
    ([0b01110000, 0x34], .bvs 0x34), ([0b10010000, 0x34], .bcc 0x34), ([0b10110000, 0x34], .bcs 0x34),
    ([0b11010000, 0x34], .bne 0x34), ([0b11110000, 0x34], .beq 0x34)] = true := by decide +kernel

/-- 47_jump_call_return.md, bit by bit from the "Encoding" lines. -/
theorem test_decode_jump_call_return : decodes [
    ([0b00100000, 0x34, 0x12], .jsr 0x1234), ([0b01000000], .rti), ([0b01001100, 0x34, 0x12], .jmpAbs 0x1234),
    ([0b01100000], .rts), ([0b01101100, 0x34, 0x12], .jmpInd 0x1234)] = true := by decide +kernel

/-- 48_stack.md, bit by bit from the "Encoding" lines. -/
theorem test_decode_stack : decodes [
    ([0b00001000], .php), ([0b00101000], .plp), ([0b01001000], .pha),
    ([0b01101000], .pla)] = true := by decide +kernel

/-- 49_flags_transfer_misc.md, bit by bit from the "Encoding" lines. -/
theorem test_decode_flags_transfer_misc_1 : decodes [
    ([0b00000000], .brk), ([0b00011000], .clc), ([0b00111000], .sec),
    ([0b01011000], .cli), ([0b01111000], .sei), ([0b10001010], .txa),
    ([0b10011000], .tya), ([0b10011010], .txs), ([0b10101000], .tay),
    ([0b10101010], .tax), ([0b10111000], .clv), ([0b10111010], .tsx)] = true := by decide +kernel

/-- 49_flags_transfer_misc.md, bit by bit from the "Encoding" lines. -/
theorem test_decode_flags_transfer_misc_2 : decodes [
    ([0b11011000], .cld), ([0b11101010], .nop), ([0b11111000], .sed)] = true := by decide +kernel

/-- The 105 opcode bytes that R77 lists are refused, whatever follows. -/
theorem test_illegal_opcodes_refused : illegalOpcodes.all (fun op => match decode [op, 0x00, 0x00] with
    | .error e => e == .illegalOpcode op
    | .ok _ => false) = true := by decide +kernel

/-- A byte list that ends too soon is refused: notes/assumptions/15.md. -/
theorem test_truncated_refused : decode [0xAD, 0x34] = .error .truncated ∧ decode [] = .error .truncated :=
  ⟨rfl, rfl⟩

/-- The encoder writes the little-endian operand word and the single operand byte. -/
theorem test_encode : encode (.ldaAbsx 0x1234) = [0xBD, 0x34, 0x12] ∧ encode (.stxZpy 0xF0) = [0x96, 0xF0] ∧
    encode .brk = [0x00] := by decide +kernel

/-! ### Well-formedness: an ill-formed form for each kind of check is refused -/

/-- LDX has no zero-page X mode, STX no absolute Y mode, STA no immediate, JSR no indirect (40_load_store.md R102, R105,
R104; 47_jump_call_return.md R142). -/
theorem test_wf_refuses_missing_modes : Form.wf ⟨.ldx, .mem (.zpx 0x10)⟩ = false ∧
    Form.wf ⟨.stx, .mem (.absy 0x0200)⟩ = false ∧ Form.wf ⟨.sta, .imm 0x01⟩ = false ∧
    Form.wf ⟨.jsr, .ind 0x0200⟩ = false := by decide

/-- An operand where the instruction takes none, none where it takes one, and a memory operand for a branch. -/
theorem test_wf_refuses_operand_kinds : Form.wf ⟨.nop, .imm 0x01⟩ = false ∧ Form.wf ⟨.lda, .imp⟩ = false ∧
    Form.wf ⟨.beq, .mem (.abs 0x8000)⟩ = false ∧ Form.wf ⟨.inc, .acc⟩ = false ∧ Form.wf ⟨.bit, .imm 0x01⟩ = false := by
  decide

/-- The neighbours the rules do give. -/
theorem test_wf_accepts : Form.wf ⟨.ldx, .mem (.zpy 0x10)⟩ = true ∧ Form.wf ⟨.jmp, .ind 0x0200⟩ = true ∧
    Form.wf ⟨.ror, .acc⟩ = true ∧ Form.wf ⟨.beq, .rel 0x02⟩ = true := by decide

/-! ### One step per vector of 95_test_vectors.md; the name's end is the vector's -/

theorem test_lda_LS6 :
    let t := ran (code 0x8000 [0xA1, 0xFE] (put [(0x00FF, 0x05), (0x0000, 0x03), (0x0305, 0x99)] { start with x := 0x01 }))
    (t.a, t.p, t.pc, t.cyc) = (0x99, 0xA0, 0x8002, 6) := by decide +kernel
theorem test_lda_LS7 :
    let t := ran (code 0x8000 [0xB1, 0x10] (put [(0x0010, 0xF0), (0x0011, 0x02), (0x0310, 0x7E)] { start with y := 0x20 }))
    (t.a, t.pc, t.cyc) = (0x7E, 0x8002, 6) := by decide +kernel
theorem test_ldx_LS9 :
    let t := ran (code 0x8000 [0xB6, 0xFF] (put [(0x0000, 0x81)] { start with y := 0x01 }))
    (t.x, t.p, t.pc, t.cyc) = (0x81, 0xA0, 0x8002, 4) := by decide +kernel
theorem test_ldx_LS10 :
    let t := ran (code 0x8000 [0xBE, 0x00, 0x02] (put [(0x02FF, 0x00)] { start with y := 0xFF }))
    (t.p, t.pc, t.cyc) = (0x22, 0x8003, 4) := by decide +kernel
theorem test_ldy_LS11 :
    let t := ran (code 0x8000 [0xBC, 0xF0, 0x80] { start with x := 0x10 })
    (t.y, t.p, t.pc, t.cyc) = (0x00, 0x22, 0x8003, 5) := by decide +kernel
theorem test_sta_LS14 :
    let t := ran (code 0x8000 [0x91, 0x10] (put [(0x0010, 0x00), (0x0011, 0x03)] { start with a := 0x77, y := 0x05 }))
    (t.pc, t.cyc, t.peek 0x0305) = (0x8002, 6, some 0x77) := by decide +kernel
theorem test_sta_LS16 :
    let t := ran (code 0x8000 [0x8D, 0x34, 0xC0] { start with a := 0x12 })
    (t.pc, t.cyc, t.mem.read 0x8034) = (0x8003, 4, 0x12) := by decide +kernel
theorem test_stx_LS18 :
    let t := ran (code 0x8000 [0x96, 0xF0] { start with x := 0x42, y := 0x20 })
    (t.pc, t.cyc, t.peek 0x0010) = (0x8002, 4, some 0x42) := by decide +kernel
theorem test_sty_LS19 :
    let t := ran (code 0x8000 [0x8C, 0x00, 0x07] { start with y := 0x07 })
    (t.pc, t.cyc, t.peek 0x0700) = (0x8003, 4, some 0x07) := by decide +kernel
theorem test_adc_AR3 :
    let t := ran (code 0x8000 [0x69, 0x80] { start with a := 0x80, p := 0x20 })
    (t.a, t.p, t.pc) = (0x00, 0x63, 0x8002) := by decide +kernel
theorem test_adc_AR6 :
    let t := ran (code 0x8000 [0x69, 0x10] { start with a := 0x10, p := 0x29 })
    (t.a, t.p, t.pc) = (0x21, 0x28, 0x8002) := by decide +kernel
theorem test_sbc_AR9 :
    let t := ran (code 0x8000 [0xE9, 0x01] { start with a := 0x80, p := 0x21 })
    (t.a, t.p, t.pc) = (0x7F, 0x61, 0x8002) := by decide +kernel
theorem test_sbc_AR11 :
    let t := ran (code 0x8000 [0xE9, 0x50] { start with a := 0x50, p := 0x20 })
    (t.a, t.p, t.pc) = (0xFF, 0xA0, 0x8002) := by decide +kernel
theorem test_and_LG1 :
    let t := ran (code 0x8000 [0x29, 0x3C] { start with a := 0xF0, p := 0x61 })
    (t.a, t.p, t.pc) = (0x30, 0x61, 0x8002) := by decide +kernel
theorem test_ora_LG3 :
    let t := ran (code 0x8000 [0x09, 0x80] { start with a := 0x01 })
    (t.a, t.p, t.pc) = (0x81, 0xA0, 0x8002) := by decide +kernel
theorem test_eor_LG4 :
    let t := ran (code 0x8000 [0x49, 0xFF] { start with a := 0xFF })
    (t.a, t.p, t.pc) = (0x00, 0x22, 0x8002) := by decide +kernel
theorem test_bit_LG5 :
    let t := ran (code 0x8000 [0x24, 0x10] (put [(0x0010, 0xC0)] { start with a := 0x01 }))
    (t.p, t.pc, t.cyc) = (0xE2, 0x8002, 3) := by decide +kernel
theorem test_bit_LG6 :
    let t := ran (code 0x8000 [0x2C, 0x00, 0x03] (put [(0x0300, 0x01)] { start with a := 0x0F, p := 0xE2 }))
    (t.p, t.pc, t.cyc) = (0x20, 0x8003, 4) := by decide +kernel
theorem test_asl_SH1 :
    let t := ran (code 0x8000 [0x0A] { start with a := 0x80 })
    (t.a, t.p, t.pc, t.cyc) = (0x00, 0x23, 0x8001, 2) := by decide +kernel
theorem test_asl_SH2 :
    let t := ran (code 0x8000 [0x06, 0x10] (put [(0x0010, 0x41)] start))
    (t.p, t.pc, t.cyc, t.peek 0x0010) = (0xA0, 0x8002, 5, some 0x82) := by decide +kernel
theorem test_lsr_SH3 :
    let t := ran (code 0x8000 [0x4A] { start with a := 0x01 })
    (t.a, t.p, t.pc) = (0x00, 0x23, 0x8001) := by decide +kernel
theorem test_lsr_SH4 :
    let t := ran (code 0x8000 [0x5E, 0xFF, 0x02] (put [(0x0300, 0x80)] { start with x := 0x01 }))
    (t.p, t.pc, t.cyc, t.peek 0x0300) = (0x20, 0x8003, 7, some 0x40) := by decide +kernel
theorem test_rol_SH5 :
    let t := ran (code 0x8000 [0x2A] { start with a := 0x80, p := 0x20 })
    (t.a, t.p, t.pc) = (0x00, 0x23, 0x8001) := by decide +kernel
theorem test_rol_SH6 :
    let t := ran (code 0x8000 [0x26, 0x10] (put [(0x0010, 0x00)] { start with p := 0x21 }))
    (t.p, t.pc, t.cyc, t.peek 0x0010) = (0x20, 0x8002, 5, some 0x01) := by decide +kernel
theorem test_ror_SH7 :
    let t := ran (code 0x8000 [0x6A] { start with a := 0x01, p := 0x20 })
    (t.a, t.p, t.pc) = (0x00, 0x23, 0x8001) := by decide +kernel
theorem test_ror_SH8 :
    let t := ran (code 0x8000 [0x76, 0x0F] (put [(0x0010, 0x00)] { start with x := 0x01, p := 0x21 }))
    (t.p, t.pc, t.cyc, t.peek 0x0010) = (0xA0, 0x8002, 6, some 0x80) := by decide +kernel
theorem test_cmp_CP2 :
    let t := ran (code 0x8000 [0xC9, 0x00] { start with a := 0x80 })
    (t.p, t.pc) = (0xA1, 0x8002) := by decide +kernel
theorem test_cmp_CP3 :
    let t := ran (code 0x8000 [0xC5, 0x10] (put [(0x0010, 0x77)] { start with a := 0x77, p := 0x60 }))
    (t.p, t.pc, t.cyc) = (0x63, 0x8002, 3) := by decide +kernel
theorem test_cpx_CP4 :
    let t := ran (code 0x8000 [0xE0, 0x10] { start with x := 0x05 })
    (t.p, t.pc) = (0xA0, 0x8002) := by decide +kernel
theorem test_cpy_CP5 :
    let t := ran (code 0x8000 [0xC0, 0x00] { start with y := 0xFF })
    (t.p, t.pc) = (0xA1, 0x8002) := by decide +kernel
theorem test_inc_ID1 :
    let t := ran (code 0x8000 [0xE6, 0x10] (put [(0x0010, 0xFF)] { start with p := 0x61 }))
    (t.p, t.pc, t.cyc, t.peek 0x0010) = (0x63, 0x8002, 5, some 0x00) := by decide +kernel
theorem test_inc_ID2 :
    let t := ran (code 0x8000 [0xFE, 0xFF, 0x02] (put [(0x0300, 0x7F)] { start with x := 0x01 }))
    (t.p, t.pc, t.cyc, t.peek 0x0300) = (0xA0, 0x8003, 7, some 0x80) := by decide +kernel
theorem test_dec_ID3 :
    let t := ran (code 0x8000 [0xC6, 0x10] (put [(0x0010, 0x00)] start))
    (t.p, t.pc, t.cyc, t.peek 0x0010) = (0xA0, 0x8002, 5, some 0xFF) := by decide +kernel
theorem test_dec_ID4 :
    let t := ran (code 0x8000 [0xD6, 0xFF] (put [(0x0011, 0x01)] { start with x := 0x12 }))
    (t.p, t.pc, t.cyc, t.peek 0x0011) = (0x22, 0x8002, 6, some 0x00) := by decide +kernel
theorem test_inx_ID5 :
    let t := ran (code 0x8000 [0xE8] { start with x := 0xFF })
    (t.x, t.p, t.pc) = (0x00, 0x22, 0x8001) := by decide +kernel
theorem test_iny_ID6 :
    let t := ran (code 0x8000 [0xC8] { start with y := 0x7F })
    (t.y, t.p, t.pc) = (0x80, 0xA0, 0x8001) := by decide +kernel
theorem test_dex_ID7 :
    let t := ran (code 0x8000 [0xCA] { start with x := 0x00 })
    (t.x, t.p, t.pc) = (0xFF, 0xA0, 0x8001) := by decide +kernel
theorem test_dey_ID8 :
    let t := ran (code 0x8000 [0x88] { start with y := 0x01 })
    (t.y, t.p, t.pc) = (0x00, 0x22, 0x8001) := by decide +kernel
theorem test_bcc_BR1 :
    let t := ran (code 0x8000 [0x90, 0x10] { start with p := 0x20 })
    (t.pc, t.cyc) = (0x8012, 3) := by decide +kernel
theorem test_bcc_BR2 :
    let t := ran (code 0x8000 [0x90, 0x10] { start with p := 0x21 })
    (t.pc, t.cyc) = (0x8002, 2) := by decide +kernel
theorem test_bcs_BR3 :
    let t := ran (code 0x8000 [0xB0, 0x80] { start with p := 0x21 })
    (t.pc, t.cyc) = (0x7F82, 4) := by decide +kernel
theorem test_beq_BR4 :
    let t := ran (code 0x8000 [0xF0, 0xFE] { start with p := 0x22 })
    (t.pc, t.cyc) = (0x8000, 3) := by decide +kernel
theorem test_bne_BR5 :
    let t := ran (code 0xFFFE [0xD0, 0x00] { start with p := 0x20 })
    (t.pc, t.cyc) = (0x0000, 3) := by decide +kernel
theorem test_bmi_BR6 :
    let t := ran (code 0x8008 [0x30, 0xFB] { start with p := 0xA0 })
    (t.pc, t.cyc) = (0x8005, 3) := by decide +kernel
theorem test_bpl_BR7 :
    let t := ran (code 0x8000 [0x10, 0x7F] { start with p := 0x20 })
    (t.pc, t.cyc) = (0x8081, 3) := by decide +kernel
theorem test_bvc_BR8 :
    let t := ran (code 0x80F0 [0x50, 0x20] { start with p := 0x20 })
    (t.pc, t.cyc) = (0x8112, 4) := by decide +kernel
theorem test_bvs_BR9 :
    let t := ran (code 0x8000 [0x70, 0x02] { start with p := 0x20 })
    (t.pc, t.cyc) = (0x8002, 2) := by decide +kernel
theorem test_bvs_BR10 :
    let t := ran (code 0x8000 [0x70, 0x02] { start with p := 0x60 })
    (t.pc, t.cyc) = (0x8004, 3) := by decide +kernel
theorem test_jmpAbs_JP1 :
    let t := ran (code 0x8000 [0x4C, 0x34, 0x12] start)
    (t.pc, t.cyc) = (0x1234, 3) := by decide +kernel
theorem test_jmpInd_JP2 :
    let t := ran (code 0x8000 [0x6C, 0xFF, 0x02] (put [(0x02FF, 0x20), (0x0200, 0x80), (0x0300, 0x90)] start))
    (t.pc, t.cyc) = (0x8020, 5) := by decide +kernel
theorem test_jmpInd_JP3 :
    let t := ran (code 0x8000 [0x6C, 0xFF, 0x02] (put [(0x02FF, 0x20), (0x0200, 0x80), (0x0300, 0x90)] { start with cfg := { start.cfg with jmpIndPageWrap := false } }))
    (t.pc) = (0x9020) := by decide +kernel
theorem test_jsr_JP5 :
    let t := ran (code 0x8002 [0x20, 0x0A, 0x80] start)
    (t.sp, t.pc, t.cyc, t.peek 0x01FF, t.peek 0x01FE) = (0xFD, 0x800A, 6, some 0x80, some 0x04) := by decide +kernel
theorem test_jsr_JP6 :
    let t := ran (code 0x8000 [0x20, 0x00, 0x90] { start with sp := 0x00 })
    (t.sp, t.pc, t.peek 0x0100, t.peek 0x01FF) = (0xFE, 0x9000, some 0x80, some 0x02) := by decide +kernel
theorem test_rts_JP7 :
    let t := ran (code 0x8000 [0x60] (put [(0x01FE, 0x04), (0x01FF, 0x80)] { start with sp := 0xFD }))
    (t.sp, t.pc, t.cyc) = (0xFF, 0x8005, 6) := by decide +kernel
theorem test_rts_JP8 :
    let t := ran (code 0x8000 [0x60] (put [(0x01FE, 0xFF), (0x01FF, 0xFF)] { start with sp := 0xFD }))
    (t.sp, t.pc) = (0xFF, 0x0000) := by decide +kernel
theorem test_rti_JP9 :
    let t := ran (code 0x8000 [0x40] (put [(0x01FD, 0xC3), (0x01FE, 0x34), (0x01FF, 0x12)] { start with sp := 0xFC }))
    (t.p, t.sp, t.pc, t.cyc) = (0xE3, 0xFF, 0x1234, 6) := by decide +kernel
theorem test_rti_JP10 :
    let t := ran (code 0x8000 [0x40] (put [(0x01FD, 0x00), (0x01FE, 0x02), (0x01FF, 0x80)] { start with sp := 0xFC }))
    (t.p, t.sp, t.pc) = (0x20, 0xFF, 0x8002) := by decide +kernel
theorem test_pha_ST1 :
    let t := ran (code 0x8000 [0x48] { start with a := 0x42, sp := 0xFD })
    (t.sp, t.pc, t.cyc, t.peek 0x01FD) =
      (0xFC, 0x8001, 3, some 0x42) := by decide +kernel
theorem test_pha_ST2 :
    let t := ran (code 0x8000 [0x48] { start with a := 0x42, sp := 0x00 })
    (t.sp, t.peek 0x0100) = (0xFF, some 0x42) := by decide +kernel
theorem test_php_ST3 :
    let t := ran (code 0x8000 [0x08] { start with p := 0x20 })
    (t.sp, t.p, t.peek 0x01FF) = (0xFE, 0x20, some 0x30) := by decide +kernel
theorem test_php_ST4 :
    let t := ran (code 0x8000 [0x08] { start with p := 0xCF })
    (t.sp, t.peek 0x01FF) = (0xFE, some 0xFF) := by decide +kernel
theorem test_pla_ST5 :
    let t := ran (code 0x8000 [0x68] (put [(0x0100, 0x80)] { start with sp := 0xFF }))
    (t.a, t.sp, t.p, t.cyc) = (0x80, 0x00, 0xA0, 4) := by decide +kernel
theorem test_plp_ST6 :
    let t := ran (code 0x8000 [0x28] (put [(0x01FF, 0xC3)] { start with sp := 0xFE }))
    (t.p, t.sp, t.cyc) = (0xE3, 0xFF, 4) := by decide +kernel
theorem test_plp_ST7 :
    let t := ran (code 0x8000 [0x28] (put [(0x01FF, 0x00)] { start with sp := 0xFE, p := 0x34 }))
    (t.p, t.sp) = (0x20, 0xFF) := by decide +kernel
theorem test_clc_FT1 :
    let t := ran (code 0x8000 [0x18] { start with p := 0x21 })
    (t.p, t.pc, t.cyc) = (0x20, 0x8001, 2) := by decide +kernel
theorem test_sec_FT2 :
    let t := ran (code 0x8000 [0x38] { start with p := 0x20 })
    (t.p) = (0x21) := by decide +kernel
theorem test_cli_FT3 :
    let t := ran (code 0x8000 [0x58] { start with p := 0x24 })
    (t.p) = (0x20) := by decide +kernel
theorem test_sei_FT4 :
    let t := ran (code 0x8000 [0x78] { start with p := 0x20 })
    (t.p) = (0x24) := by decide +kernel
theorem test_cld_FT5 :
    let t := ran (code 0x8000 [0xD8] { start with p := 0x28 })
    (t.p) = (0x20) := by decide +kernel
theorem test_sed_FT6 :
    let t := ran (code 0x8000 [0xF8] { start with p := 0x20 })
    (t.p) = (0x28) := by decide +kernel
theorem test_clv_FT7 :
    let t := ran (code 0x8000 [0xB8] { start with p := 0x60 })
    (t.p) = (0x20) := by decide +kernel
theorem test_tax_FT8 :
    let t := ran (code 0x8000 [0xAA] { start with a := 0x00, x := 0x55 })
    (t.x, t.p) = (0x00, 0x22) := by decide +kernel
theorem test_tay_FT9 :
    let t := ran (code 0x8000 [0xA8] { start with a := 0x80 })
    (t.y, t.p) = (0x80, 0xA0) := by decide +kernel
theorem test_txa_FT10 :
    let t := ran (code 0x8000 [0x8A] { start with x := 0xFF })
    (t.a, t.p) = (0xFF, 0xA0) := by decide +kernel
theorem test_tya_FT11 :
    let t := ran (code 0x8000 [0x98] { start with a := 0x12, y := 0x00 })
    (t.a, t.p) = (0x00, 0x22) := by decide +kernel
theorem test_tsx_FT12 :
    let t := ran (code 0x8000 [0xBA] { start with sp := 0xFF })
    (t.x, t.p) = (0xFF, 0xA0) := by decide +kernel
theorem test_txs_FT13 :
    let t := ran (code 0x8000 [0x9A] { start with x := 0x00 })
    (t.sp, t.p) = (0x00, 0x20) := by decide +kernel
theorem test_brk_FT14 :
    let t := ran (code 0x8000 [0x00] (put [(0xBFFE, 0x00), (0xBFFF, 0x81)] start))
    (t.sp, t.p, t.pc, t.peek 0x01FF, t.peek 0x01FE, t.peek 0x01FD) =
      (0xFC, 0x34, 0x8100, some 0x80, some 0x02, some 0x30) := by decide +kernel
theorem test_brk_FT15 :
    let t := ran (code 0xFFFF [0x00] (put [(0xBFFE, 0x34)] start))
    (t.sp, t.p, t.pc, t.peek 0x01FF, t.peek 0x01FE, t.peek 0x01FD) =
      (0xFC, 0x34, 0x0034, some 0x00, some 0x01, some 0x30) := by decide +kernel
theorem test_nop_FT16 :
    let t := ran (code 0x8000 [0xEA] start)
    (t.pc, t.cyc) = (0x8001, 2) := by decide +kernel
theorem test_irq_EX3 :
    let t := ran (code 0x8000 [0xEA] (vectors { start with p := 0x20, inputs := { listed := [⟨false, true⟩] } }))
    (t.sp, t.p, t.pc, t.peek 0x01FF, t.peek 0x01FE, t.peek 0x01FD) =
      (0xFC, 0x34, 0x9000, some 0x80, some 0x00, some 0x20) := by decide +kernel
theorem test_irq_masked_EX4 :
    let t := ran (code 0x8000 [0xEA] (vectors { start with p := 0x24, inputs := { listed := [⟨false, true⟩] } }))
    (t.pc, t.cyc) = (0x8001, 2) := by decide +kernel
theorem test_nmi_EX5 :
    let t := ran (code 0x8000 [0xEA] (vectors { start with p := 0x24, inputs := { listed := [⟨true, false⟩] } }))
    (t.sp, t.p, t.pc, t.peek 0x01FF, t.peek 0x01FE, t.peek 0x01FD) =
      (0xFC, 0x34, 0xA000, some 0x80, some 0x00, some 0x24) := by decide +kernel
theorem test_nmi_and_irq_EX6 :
    let t := ran (code 0x8000 [0xEA] (vectors { start with p := 0x20, inputs := { listed := [⟨true, true⟩] } }))
    (t.sp, t.p, t.pc, t.peek 0x01FD, t.peek 0x01FE, t.peek 0x01FF) =
      (0xFC, 0x30, 0xA000, some 0x20, some 0x00, some 0x80) := by decide +kernel

/-! ### Faults, reset, memory, loads and the disassembly -/

/-- V-EX2: an illegal opcode is recorded, nothing else changes, and no step follows. -/
theorem test_illegal_EX2 :
    ran (code 0x8000 [0xFF] { start with a := 0x12, p := 0xA3 }) =
      { code 0x8000 [0xFF] { start with a := 0x12, p := 0xA3 } with fault := some (.decodeError 0xFF 0x8000) } := by
  decide +kernel

/-- V-RS1 and V-RS3: the reset vector with one bank and with two. -/
theorem test_reset_RS1_RS3 :
    (put [(0xBFFC, 0x00), (0xBFFD, 0xC0)] State.reset).applyReset.pc = 0xC000 ∧
      (put [(0xFFFC, 0x34), (0xFFFD, 0x92)] { State.reset with cfg := { prgBanks := .two } }).applyReset.pc = 0x9234 := by
  decide +kernel

/-- V-MEM1: one RAM cell at four addresses. -/
theorem test_ram_mirrors_MEM1 : let s := start.busWrite 0x1B05 0x77
    [0x0305, 0x0B05, 0x1305, 0x1B05].map s.busRead = [0x77, 0x77, 0x77, 0x77] := by decide +kernel

/-- V-LS15 and V-LS17: a write to the picture-unit window, and one to program ROM where writes are ignored, change
nothing. -/
theorem test_dropped_writes_LS15_LS17 : start.busWrite 0x2000 0x12 = start ∧
    { start with cfg := { mapper0Write := .ignore } }.busWrite 0xC034 0x12 =
      { start with cfg := { mapper0Write := .ignore } } := by decide +kernel

/-- The word stored by `withFetchWord` is the first instruction after reset: `A9 05`. -/
theorem test_withFetchWord_runs : let t := ran (State.reset.withFetchWord 16 0x05A9)
    (t.a, t.pc) = (0x05, 0x0002) := by decide +kernel

/-- Table words are numbered first byte lowest: `8D 00 20`, and `A5` with no operand bits. -/
theorem test_decodeTableWord : decodeTableWord 24 0x20008D = some (.staAbs 0x2000) ∧
    decodeTableWord 8 0xFFA5 = some (.ldaZp 0x00) ∧ decodeTableWord 8 0x02 = none := by decide +kernel

/-- A 16-byte header (70_reset_and_hazards.md R189). -/
def header (prg flags6 flags7 : Byte) : List Byte :=
  [0x4E, 0x45, 0x53, 0x1A, prg, 0x00, flags6, flags7, 0x00, 0x00, 0x00, 0x00, 0x00, 0x00, 0x00, 0x00]

/-- Whether a load is refused with the given error. -/
def refusedWith (e : LoadError) (file : Option (List Byte)) : Bool :=
  match start.load file with
  | .error e' => e' == e
  | .ok _ => false

/-- V-LD4 to V-LD9, V-LD11 and V-LD12. -/
theorem test_load_refusals : refusedWith .truncatedHeader (some ((header 1 0 0).take 10)) = true ∧
    refusedWith .unrecognizedFormat (some (0x00 :: (header 1 0 0).drop 1)) = true ∧
    refusedWith .unsupportedFormatVersion (some (header 1 0 0x08)) = true ∧
    refusedWith (.unsupportedMapper 0x01) (some (header 1 0x10 0)) = true ∧
    refusedWith (.unsupportedMapper 0x40) (some (header 1 0 0x40)) = true ∧
    refusedWith .truncatedProgramData (some (header 1 0 0 ++ [0xEA])) = true ∧
    refusedWith (.unsupportedBankCount 0) (some (header 0 0 0)) = true ∧
    refusedWith (.unsupportedBankCount 3) (some (header 3 0 0)) = true ∧
    refusedWith .ioError none = true := by decide +kernel

/-- The lines of a disassembly as (address, bytes, text). -/
def listing (lo hi : Nat) (l : List Byte) : List (Addr × List Byte × String) × Option Fault :=
  let r := (putBytes (BitVec.ofNat 16 lo) l start).disassemble lo hi
  (r.lines.map fun x => (x.addr, x.bytes, String.ofList x.text), r.error)

/-- S8: the source's example, whose window ends before the byte at $8005. -/
theorem test_disassembly_S8 : listing 0x8000 0x8005 [0xA9, 0x05, 0x8D, 0x00, 0x20] =
    ([(0x8000, [0xA9, 0x05], "LDA #$05"), (0x8002, [0x8D, 0x00, 0x20], "STA $2000")], none) := by decide +kernel

/-- V-DS1 and V-DS2: the pointer of JMP, and the target of a branch. -/
theorem test_disassembly_DS1_DS2 :
    listing 0x8000 0x8003 [0x6C, 0xFF, 0x02] = ([(0x8000, [0x6C, 0xFF, 0x02], "JMP ($02FF)")], none) ∧
      listing 0x8000 0x8004 [0xA9, 0x00, 0xF0, 0x02] =
        ([(0x8000, [0xA9, 0x00], "LDA #$00"), (0x8002, [0xF0, 0x02], "BEQ $8006")], none) := by decide +kernel

/-- V-DS3 and V-DS4: the other operand texts, and the fault that ends a pass. -/
theorem test_disassembly_DS3_DS4 :
    listing 0x8000 0x8005 [0x0A, 0xB1, 0x10, 0x96, 0xF0] =
        ([(0x8000, [0x0A], "ASL A"), (0x8001, [0xB1, 0x10], "LDA ($10),Y"), (0x8003, [0x96, 0xF0], "STX $F0,Y")], none) ∧
      listing 0x8000 0x8002 [0xEA, 0x02, 0xEA] =
        ([(0x8000, [0xEA], "NOP")], some (.decodeError 0x02 0x8001)) := by decide +kernel

/-! ### The end of a run, and the host's inputs -/

/-- The program P6: it overwrites the instruction at $8005, and ends at $8006. -/
def selfModifying : State := code 0x8000 [0xA9, 0xE8, 0x8D, 0x05, 0x80, 0xEA, 0x4C, 0x06, 0x80] start

/-- P6 where writes to the cartridge are ignored. -/
def selfModifyingIgnored : State := { selfModifying with cfg := { start.cfg with mapper0Write := .ignore } }

/-- A, X, P and the byte at $8005 where a run has ended. -/
def endOf : RunEnd → Option (List Byte)
  | .ended t => some [t.a, t.x, t.p, t.busRead 0x8005]
  | _ => none

/-- P6: the run ends after three instructions, with writes to the cartridge through and with them ignored. -/
theorem test_run_P6 : endOf (selfModifying.runTo 0x8006 2) = none ∧
    endOf (selfModifying.runTo 0x8006 9) = some [0xE8, 0x01, 0x20, 0xE8] ∧
    endOf (selfModifyingIgnored.runTo 0x8006 9) = some [0xE8, 0x00, 0xA0, 0xEA] := by decide +kernel

/-- A run that records a fault has failed; an address without the self-JMP is no stop (70_reset_and_hazards.md R194). -/
theorem test_run_without_end : (code 0x8000 [0xEA, 0xFF] start).runTo 0x8006 9 = .failed (.decodeError 0xFF 0x8001) ∧
    (code 0x8000 [0x4C, 0x03, 0x80] start).atStop 0x8000 = false ∧
    (code 0x8000 [0x4C, 0x00, 0x80] start).atStop 0x8000 = true := by decide +kernel

/-- An IRQ line held forever is taken again at each boundary at which I is clear, and masked by I between: NOP, the IRQ, then the
handler's RTI, and the IRQ again (60_exceptions.md R168, R169). -/
theorem test_irq_held_forever :
    let s := putBytes 0x9000 [0x40] (code 0x8000 [0xEA] (vectors { start with
      inputs := { listed := [⟨false, false⟩], rest := .always ⟨false, true⟩ } }))
    let pcs := [s, ran s, ran (ran s), ran (ran (ran s)), ran (ran (ran (ran s)))].map (·.pc)
    pcs = [0x8000, 0x8001, 0x9000, 0x8001, 0x9000] := by decide +kernel

/-- A sequence of which nothing is known gives a free value, and another one at the next step (60_exceptions.md R169). -/
theorem test_unknown_inputs : let s := { start with inputs := { rest := .anything 7 } }
    s.input = ⟨Config.nmiEdge 7, Config.irqLine 7⟩ ∧
      s.latchInputs.input = ⟨Config.nmiEdge 8, Config.irqLine 8⟩ := ⟨rfl, rfl⟩

/-! ### Witnesses: for each statement with hypotheses, a state and operands that meet them -/

/-- A state that runs LDA #$05 next. -/
def runsLda : State := code 0x8000 [0xA9, 0x05] start

/-- A state with an IRQ asserted and I clear. -/
def irqState : State := { runsLda with inputs := { listed := [⟨false, true⟩] } }

/-- A state with an NMI edge and an IRQ presented, and an IRQ again at the boundary after. -/
def nmiState : State := { runsLda with inputs := { listed := [⟨true, true⟩, ⟨false, true⟩] } }

/-- Whether an outcome is a next state. -/
def isNext : Result → Bool
  | .next _ => true
  | _ => false

theorem exists_next {o : Result} (h : isNext o = true) : ∃ t, o = .next t := by
  cases o with
  | next t => exact ⟨t, rfl⟩
  | fault => cases h
  | refused => cases h

/-- For DecodedBytesAreTheInstructionsOwn and DecodingTakesTheModesLength. -/
theorem witness_DecodedBytes : decode [0xA9, 0x05, 0xEA] = .ok (.ldaImm 0x05, [0xEA]) := rfl

theorem witness_StepRunsTheDecodedInstruction : RunsInstruction runsLda ∧
    decodes [((runsLda.latchInputs.fetch runsLda.pc).1, .ldaImm 0x05)] = true := by decide +kernel

theorem witness_StepRunsTheStoredInstruction : RunsInstruction runsLda ∧
    ∀ k (hk : k < (encode (.ldaImm 0x05)).length),
      runsLda.peek (runsLda.pc + BitVec.ofNat 16 k) = some (encode (.ldaImm 0x05))[k] := by decide +kernel

theorem witness_IllegalOpcodeIsFatal : RunsInstruction (code 0x8000 [0x02] start) ∧
    (code 0x8000 [0x02] start).busRead 0x8000 ∈ illegalOpcodes := by decide +kernel

/-- A step whose opcode byte is one no rule lists as illegal and one that is; a state with a fault recorded. -/
theorem witness_OnlyARecordedFaultStops : Running runsLda ∧
    { start with fault := some (.decodeError 0x02 0x8000) }.fault = some (.decodeError 0x02 0x8000) := by decide +kernel

/-- A step that answers a next state, from a state that meets the invariant. For StepKeepsTheConfiguration too. -/
theorem witness_StepKeepsTheInvariant : Inv runsLda ∧ ∃ t, step runsLda = .next t :=
  ⟨by decide +kernel, exists_next (by decide +kernel)⟩

theorem witness_ProgramCounterAdvances : (∃ t, exec (.ldaImm 0x05) start = .next t) ∧
    Mnemonic.lda ∉ [Mnemonic.jmp, .jsr, .rts, .rti, .brk] ∧
    (∃ t, exec (.beq 0x02) start = .next t) ∧ branchTaken .beq start = false ∧
    (∃ t, exec (.beq 0x02) { start with p := 0x22 } = .next t) ∧ branchTaken .beq { start with p := 0x22 } = true :=
  ⟨⟨_, rfl⟩, by decide, ⟨_, rfl⟩, by decide +kernel, ⟨_, rfl⟩, by decide +kernel⟩

/-- Each flag does change, by an instruction of its list. -/
theorem witness_OnlyTheListedInstructionsChangeAFlag :
    (after (exec .sec start)).flag .c ≠ start.flag .c ∧
    (after (exec (.ldaImm 0x00) start)).flag .z ≠ start.flag .z ∧
    (after (exec (.ldaImm 0x80) start)).flag .n ≠ start.flag .n ∧
    (after (exec .sei start)).flag .i ≠ start.flag .i ∧ (after (exec .sed start)).flag .d ≠ start.flag .d ∧
    (after (exec .brk start)).flag .b ≠ start.flag .b ∧
    (after (exec (.adcImm 0x7F) { start with a := 0x01 })).flag .v ≠ start.flag .v := by decide +kernel

/-- Each register does change, by an instruction of its list. -/
theorem witness_OnlyTheListedInstructionsChangeARegister :
    (after (exec (.ldaImm 0x05) start)).a ≠ start.a ∧
    (after (exec .aslAcc { start with a := 0x01 })).a ≠ 0x01 ∧
    (after (exec .inx start)).x ≠ start.x ∧ (after (exec .iny start)).y ≠ start.y ∧
    (after (exec .txs start)).sp ≠ start.sp ∧ (after (exec .php start)).mem ≠ start.mem ∧
    (after (exec (.rolZp 0x10) { start with p := 0x21 })).mem ≠ start.mem := by decide +kernel

/-- A row of the table, a branch taken across a page, and a crossing that costs a cycle. -/
theorem witness_CyclesFollowTheTimingRule : (decodeOpcode 0xBD).isSome = true ∧
    (after (exec (.ldaAbsx 0x12F0) { start with x := 0x10 })).cyc = 5 ∧
    (after (exec (.beq 0x10) { start with pc := 0x80F0, p := 0x22 })).cyc = 4 := by decide +kernel

theorem witness_ResetSequence : start.cfg.resetPcMode = .fixed8000 ∧
    State.reset.cfg.resetPcMode = .vector ∧ State.reset.cfg.prgBanks = .one ∧
    ({ prgBanks := .two } : Cfg).resetPcMode = .vector := by decide +kernel

theorem witness_IrqEntry : Memory.wf irqState.mem = true ∧ Running irqState ∧ irqState.nmiPending = false ∧
    irqState.input.nmiEdge = false ∧ irqState.input.irqLine = true ∧ irqState.flag .i = false := by decide +kernel

theorem witness_NmiEntry : Memory.wf nmiState.mem = true ∧ Running nmiState ∧ nmiState.input.nmiEdge = true ∧
    { runsLda with nmiPending := true }.nmiPending = true := by decide +kernel

/-- An NMI entry that found I clear, with the IRQ still asserted at the next boundary (V-EX7). -/
theorem witness_EventPriority : nmiState.event = .nmi ∧ step nmiState = .next nmiState.latchInputs.nmiEntry ∧
    nmiState.flag .i = false ∧ nmiState.latchInputs.nmiEntry.input = ⟨false, true⟩ ∧
    { start with fault := some (.decodeError 0x02 0x8000) }.event = .stopped (.decodeError 0x02 0x8000) ∧
    irqState.event = .irq ∧ runsLda.event = .instruction :=
  ⟨by decide +kernel, rfl, by decide +kernel, by decide +kernel, rfl, by decide +kernel, by decide +kernel⟩

theorem witness_InterruptInputs : { runsLda with nmiPending := true }.nmiPending = true ∧
    { runsLda with p := 0x24 }.flag .i = true ∧ irqState.event = .irq := by decide +kernel

theorem witness_ReturnFromInterruptResumes : Memory.wf irqState.mem = true ∧ irqState.event = .irq ∧
    step irqState = .next irqState.latchInputs.irqEntry ∧ nmiState.event = .nmi ∧
    step nmiState = .next nmiState.latchInputs.nmiEntry :=
  ⟨by decide +kernel, by decide +kernel, rfl, by decide +kernel, rfl⟩

theorem witness_ReturnFromBreakSkipsThePadding : Memory.wf start.mem = true ∧
    exec .brk start = .next (start.brkEntry.setCyc 7) := ⟨by decide, rfl⟩

/-- Each region at its two ends; a storable address of each region, and the three that are not. -/
theorem witness_BusRegions : cell start.cfg 0x0000 = some 0 ∧ cell start.cfg 0x1FFF = some 0x07FF ∧
    cell start.cfg 0x2000 = none ∧ cell start.cfg 0x3FFF = none ∧ cell start.cfg 0x4000 = some 0x4000 ∧
    cell start.cfg 0x7FFF = some 0x7FFF ∧ cell start.cfg 0x8000 = some 0x8000 ∧ cell start.cfg 0xFFFF = some 0xBFFF ∧
    cell { prgBanks := .two } 0xFFFF = some 0xFFFF ∧ storable start.cfg 0x1FFF = true ∧
    storable start.cfg 0x2000 = false ∧ storable start.cfg 0x3FFF = false ∧ storable start.cfg 0x4000 = true ∧
    storable start.cfg 0xFFFF = true ∧ storable { mapper0Write := .ignore } 0x8000 = false ∧
    storable { mapper0Write := .ignore } 0x7FFF = true ∧ Memory.wf start.mem = true := by decide +kernel

theorem witness_RamMirrors : Memory.wf start.mem = true ∧ (0x0305 : Addr).toNat < 0x2000 ∧
    (0x1B05 : Addr).toNat < 0x2000 ∧ (0x0305 : Addr).toNat % 0x800 = (0x1B05 : Addr).toNat % 0x800 := by decide +kernel

theorem witness_MapperReads : 0x8000 ≤ (0xC000 : Addr).toNat ∧ start.cfg.prgBanks = .one ∧
    0xC000 ≤ (0xC000 : Addr).toNat ∧ ({ prgBanks := .two } : Cfg).prgBanks = .two := by decide +kernel

theorem witness_MapperWrites : Memory.wf start.mem = true ∧ 0x8000 ≤ (0xC034 : Addr).toNat ∧
    ({ mapper0Write := .ignore } : Cfg).mapper0Write = .ignore ∧ start.cfg.mapper0Write = .writeThrough ∧
    cell start.cfg 0x8034 = cell start.cfg 0xC034 ∧ cell start.cfg 0x8035 ≠ cell start.cfg 0xC034 := by decide +kernel

/-- A word inside a region, and one whose high byte wraps to $0000. -/
theorem witness_WordsAreLittleEndian : start.peek 0x8000 = some 0x00 ∧
    start.peek (BitVec.ofNat 16 (((0x8000 : Addr).toNat + 1) % 65536)) = some 0x00 ∧ start.peek 0xFFFF = some 0x00 ∧
    start.peek (BitVec.ofNat 16 (((0xFFFF : Addr).toNat + 1) % 65536)) = some 0x00 := by decide +kernel

/-- A canonical memory, for the statements that ask for one. For CanonicalMemoriesAreEqualData (a memory
equals itself), PushAndPull, PushInstructions, JsrPushesItsLastByteAddress and BrkEntersTheBreakVector. -/
theorem witness_canonical_memory : Memory.wf runsLda.mem = true ∧ Memory.wf (runsLda.mem.write 5 0x01) = true ∧
    (5 : Nat) < 65536 ∧ (6 : Nat) ≠ 5 := by decide +kernel

theorem witness_ResolvePointers : start.peek (BitVec.ofNat 16 (((0xFF : Byte).toNat + start.x.toNat) % 256)) = some 0x00 ∧
    start.peek (BitVec.ofNat 16 (((0xFF : Byte).toNat + start.x.toNat + 1) % 256)) = some 0x00 ∧
    start.peek (BitVec.ofNat 16 ((0xFF : Byte).toNat)) = some 0x00 ∧
    start.peek (BitVec.ofNat 16 (((0xFF : Byte).toNat + 1) % 256)) = some 0x00 := by decide +kernel

/-- An instruction of each family that a statement speaks of by its mnemonic, in a form that uses memory. For
LoadsWriteTheirRegister, StoresWriteOneByte, AdcAddsWithCarry, SbcSubtractsWithBorrow, LogicIsBitwise, BitTestsItsOperand, ComparesSetTheOrder and
IncrementsOfMemory. -/
theorem witness_family_members : (Instr.ldaIzy 0x10).mnemonic = .lda ∧ (Instr.ldxAbsy 0x0200).mnemonic = .ldx ∧
    (Instr.ldyZpx 0x10).mnemonic = .ldy ∧ (Instr.staIzy 0x10).mnemonic = .sta ∧ (Instr.stxZpy 0x10).mnemonic = .stx ∧
    (Instr.styAbs 0x0200).mnemonic = .sty ∧ (Instr.adcIzx 0x10).mnemonic = .adc ∧ (Instr.sbcAbs 0x0200).mnemonic = .sbc ∧
    (Instr.andZp 0x10).mnemonic = .and ∧ (Instr.oraZp 0x10).mnemonic = .ora ∧ (Instr.eorZp 0x10).mnemonic = .eor ∧
    (Instr.bitZp 0x10).mnemonic = .bit ∧ (Instr.cmpZp 0x10).mnemonic = .cmp ∧ (Instr.cpxZp 0x10).mnemonic = .cpx ∧
    (Instr.cpyZp 0x10).mnemonic = .cpy ∧ (Instr.incZp 0x10).mnemonic = .inc ∧ (Instr.decZp 0x10).mnemonic = .dec ∧
    Memory.wf runsLda.mem = true := by decide +kernel

/-- Both operand kinds of a shift. -/
theorem witness_ShiftsAndRotates : Instr.aslAcc.mnemonic = .asl ∧ Instr.aslAcc.mode = .acc ∧
    (Instr.rorAbsx 0x0300).mnemonic = .ror ∧ (Instr.rorAbsx 0x0300).mode ≠ .acc ∧ Memory.wf runsLda.mem = true := by
  decide +kernel

/-- Each branch on both outcomes of its condition: some state for each. -/
theorem witness_BranchesFollowTheirCondition : start.flag .c = false ∧ start.flag .z = false ∧ start.flag .n = false ∧
    start.flag .v = false ∧ { start with p := 0xE3 }.flag .c = true ∧ { start with p := 0xE3 }.flag .z = true ∧
    { start with p := 0xE3 }.flag .n = true ∧ { start with p := 0xE3 }.flag .v = true := by decide +kernel

/-- A pointer at the end of a page, with the quirk and without. -/
theorem witness_JumpGoesToItsTarget : (∃ t, exec (.jmpInd 0x02FF) start = .next t) ∧ start.peek 0x02FF = some 0x00 ∧
    start.cfg.jmpIndPageWrap = true ∧ start.peek 0x0200 = some 0x00 ∧
    ({ jmpIndPageWrap := false } : Cfg).jmpIndPageWrap = false ∧ start.peek 0x0300 = some 0x00 :=
  ⟨⟨_, rfl⟩, by decide +kernel, by decide +kernel, by decide +kernel, by decide +kernel, by decide +kernel⟩

theorem witness_ReturnFromCallResumes : Memory.wf start.mem = true ∧ ∃ t, exec (.jsr 0x9000) start = .next t :=
  ⟨by decide, ⟨_, rfl⟩⟩

/-- An image with a header, enough bytes after it and no defect is accepted (V-LD1 to V-LD3). -/
theorem load_accepts (prg flags6 : Byte) {banks : PrgBanks} (body : List Byte) (hb : prgBanksOf prg = some banks)
    (hm : mapperId ⟨prg, 0, flags6, 0⟩ = 0)
    (hl : programOffset ⟨prg, 0, flags6, 0⟩ + prgBankCount banks * 16384 ≤ 16 + body.length) :
    ∃ t, start.load (some (header prg flags6 0 ++ body)) = .ok t := by
  refine ⟨start.storeImage ⟨prg, 0, flags6, 0⟩ banks (header prg flags6 0 ++ body), ?_⟩
  have h1 : (header prg flags6 0 ++ body).length = 16 + body.length := by rw [List.length_append]; rfl
  have h2 : headerOf (header prg flags6 0 ++ body) = ⟨prg, 0, flags6, 0⟩ := rfl
  have h3 : (header prg flags6 0 ++ body).take 4 = headerMagic := rfl
  have h4 : newerFormat ⟨prg, 0, flags6, 0⟩ = false := by simp [newerFormat]
  simp only [State.load, h1, h2, h3, h4, hm, hb]
  rw [if_neg (by omega), if_neg (by simp), if_neg (by simp), if_neg (by simp), if_neg (by omega)]

/-- One bank, two banks, and one bank after a trainer. -/
theorem witness_LoadedProgramIsReadAtItsAddresses : Memory.wf start.mem = true ∧
    (∃ t, start.load (some (header 1 0 0 ++ List.replicate 16384 0xEA)) = .ok t) ∧
    (∃ t, start.load (some (header 2 0 0 ++ List.replicate 32768 0xEA)) = .ok t) ∧
    (∃ t, start.load (some (header 1 4 0 ++ List.replicate 16896 0xEA)) = .ok t) ∧
    ((header 1 4 0).getD 6 0).getLsbD 2 = true :=
  ⟨by decide, load_accepts 1 0 _ (banks := .one) (by decide) (by decide) (by rw [List.length_replicate]; decide),
    load_accepts 2 0 _ (banks := .two) (by decide) (by decide) (by rw [List.length_replicate]; decide),
    load_accepts 1 4 _ (banks := .one) (by decide) (by decide) (by rw [List.length_replicate]; decide), by decide⟩

/-- A run that ends at once, one that ends after three steps, one that fails, and an end from which the next boundary is an
end too. -/
theorem witness_RunEndsAtTheFirstStop : AtStop 0x8000 (code 0x8000 [0x4C, 0x00, 0x80] start) ∧
    (∃ t, selfModifying.runTo 0x8006 3 = .ended t) ∧
    (code 0x8000 [0xFF] start).runTo 0x8006 1 = .failed (.decodeError 0xFF 0x8000) ∧
    (code 0x8000 [0x4C, 0x00, 0x80] start).inputs.tail.head = ⟨false, false⟩ :=
  ⟨by decide +kernel,
    by
      have h : ∀ e : RunEnd, (endOf e).isSome = true → ∃ t, e = .ended t := by
        intro e he
        cases e with
        | ended t => exact ⟨t, rfl⟩
        | failed => cases he
        | refused => cases he
        | going => cases he
      exact h _ (by decide +kernel),
    by decide +kernel, rfl⟩

end Sys2Proof.Tests
end

section
/-! SUPPORT and PROOFS. The memory family (20_memory.md): what a read of the bus gives after a write, mapper 0, and the
stack's two operations as numbers. -/

namespace Sys2Proof.Machine

/-! ### Reads after writes -/

/-- Where a write takes effect, every address that names the cell written reads the byte written. -/
theorem State.busRead_busWrite_same {s : State} (hm : s.mem.wf = true) {a b : Addr} {v : Byte}
    (h : cell s.cfg b = cell s.cfg a) (hs : cell s.cfg a ≠ none)
    (hw : a.toNat < 0x8000 ∨ s.cfg.mapper0Write = .writeThrough) : (s.busWrite a v).busRead b = v :=
  State.busRead_of_peek (State.peek_busWrite_same hm h hs hw)

/-- Settles O25: two RAM addresses with the same low 11 bits name one cell. -/
theorem ramMirrors : Obligations.RamMirrors := by
  intro s a a' v hm ha ha' hlow
  have hcell : cell s.cfg a' = cell s.cfg a := by rw [cell_ram ha', cell_ram ha, hlow]
  exact State.busRead_busWrite_same hm hcell (by simp [cell_ram ha]) (.inl (by omega))

/-! ### Mapper 0 -/

theorem State.busRead_cartridge {s : State} {a : Addr} (h : 0x8000 ≤ a.toNat) : s.busRead a = s.mapperRead a :=
  State.busRead_of_cell (cell_cartridge h)

/-- 16KB of program ROM shows again at $C000 (20_memory.md R50). -/
theorem State.busRead_mirror {s : State} {a : Addr} (hb : s.cfg.prgBanks = .one) (h : 0xC000 ≤ a.toNat) :
    s.busRead a = s.busRead (a - 0x4000) := by
  have hsub : (a - 0x4000).toNat = a.toNat - 0x4000 := by bv_omega
  have hcell : mapperCell s.cfg a = mapperCell s.cfg (a - 0x4000) := by
    rw [mapperCell_one hb, mapperCell_one hb, hsub]
    omega
  rw [State.busRead_cartridge (by omega), State.busRead_cartridge (by omega), State.mapperRead, State.mapperRead, hcell]

/-- Settles O26: the address's cell is that of R51, case by case in the number of banks. -/
theorem mapperReads : Obligations.MapperReads := by
  intro s a ha
  refine ⟨State.busRead_cartridge ha, State.afterRead_of_cell (cell_cartridge ha), ?_, State.busRead_mirror, ?_⟩
  · cases hb : s.cfg.prgBanks with
    | one => simp only [State.mapperRead, mapperCell_one hb, Nat.one_mul]
    | two =>
      have hlt := a.isLt
      dsimp only
      rw [State.mapperRead, mapperCell_two hb ha, Nat.mod_eq_of_lt (by omega), Nat.add_sub_cancel' ha]
  · intro hb
    rw [State.busRead_cartridge ha, State.mapperRead, mapperCell_two hb ha]

/-- The mapper takes no write where writes are ignored (20_memory.md R52). -/
theorem State.busWrite_cartridge_ignore {s : State} {a : Addr} (v : Byte) (h : 0x8000 ≤ a.toNat)
    (hw : s.cfg.mapper0Write = .ignore) : s.busWrite a v = s := by
  rw [State.busWrite_eq, cell_cartridge h]
  exact if_pos ⟨h, hw⟩

/-- Settles O27: a write through sets the one cell the address names. -/
theorem mapperWrites : Obligations.MapperWrites := by
  intro s a v hm ha
  refine ⟨State.busWrite_cartridge_ignore v ha, fun hw => ⟨fun b hb => ?_, fun b hb => State.peek_busWrite_other v hb⟩⟩
  exact State.busRead_busWrite_same hm hb (by simp [cell_cartridge ha]) (.inr hw)

/-! ### The stack -/

/-- `$0100 + SP` written as a number (20_memory.md R55). -/
theorem ofNat_stackAddr (sp : Byte) : BitVec.ofNat 16 (0x100 + sp.toNat) = stackAddr sp := by
  rw [← toNat_stackAddr, BitVec.ofNat_toNat, BitVec.setWidth_eq]

/-- `SP` steps down modulo 256 (20_memory.md R58). -/
theorem toNat_sub_one_byte (sp : Byte) : (sp - 1).toNat = (sp.toNat + 255) % 256 := by bv_omega

/-- `SP` steps up modulo 256 (20_memory.md R59). -/
theorem toNat_add_one_byte (sp : Byte) : (sp + 1).toNat = (sp.toNat + 1) % 256 := by bv_omega

theorem State.peek_push_same {s : State} (hm : s.mem.wf = true) (v : Byte) :
    (s.push v).peek (stackAddr s.sp) = some v := by
  rw [State.peek_stackAddr, State.read_push_same hm]

/-- A pull gives the byte of the address `SP` steps up to (20_memory.md R59). -/
theorem State.peek_pulled (s : State) : s.peek (stackAddr (s.sp + 1)) = some s.pull.1 := by
  rw [State.peek_stackAddr, State.pull_fst]

/-- A pull takes the last push back (20_memory.md R59). -/
theorem State.pull_push {s : State} (hm : s.mem.wf = true) (v : Byte) :
    (s.push v).pull.1 = v ∧ (s.push v).pull.2.sp = s.sp := by
  have hsp : (s.push v).sp + 1 = s.sp := sub_add_cancel_byte s.sp
  exact ⟨by rw [State.pull_fst, hsp, State.read_push_same hm], hsp⟩

/-- Settles O29: the parts are the rules of `State.push` and `State.pull`, with addresses and `SP` as numbers. -/
theorem pushAndPull : Obligations.PushAndPull := by
  intro s v hm
  obtain ⟨hbyte, hback⟩ := State.pull_push hm v
  rw [← toNat_add_one_byte, ofNat_stackAddr, ofNat_stackAddr]
  refine ⟨State.peek_push_same hm v, toNat_sub_one_byte s.sp, ?_, ?_, (State.peek_pulled s).symm, rfl, rfl, hbyte, hback⟩
  · intro a ha
    exact State.peek_push_other v (ha _ (List.mem_singleton_self _))
  · rw [State.push_eq]
    rfl

end Sys2Proof.Machine
end

section
/-! SUPPORT and PROOFS. The encoding family (30_encoding.md): what a list that decodes is made of, and its length. -/

namespace Sys2Proof

/-- The operand takes the bytes of its mode's length that the opcode byte leaves (30_encoding.md R73). -/
theorem takeOperand_length {md : Mode} {bytes rest : List Byte} {o : Operand}
    (h : takeOperand md bytes = some (o, rest)) : bytes.length + 1 = md.length + rest.length := by
  unfold takeOperand at h
  split at h
  case h_4 => cases h
  all_goals
    rename_i hlen
    cases h
    simp only [hlen, List.length_cons]
    omega

/-- What a list that decodes is made of: a legal opcode byte, the operand its row's mode takes, and what is left
(30_encoding.md R72, R75). -/
theorem decode_ok {bytes rest : List Byte} {i : Instr} (h : decode bytes = .ok (i, rest)) :
    ∃ op tail e, bytes = op :: tail ∧ decodeOpcode op = some e ∧
      takeOperand e.mode tail = some (i.operand, rest) ∧ i.mnemonic = e.mnemonic ∧ i.mode = e.mode := by
  unfold decode at h
  split at h
  · cases h
  next op tail =>
    split at h
    · cases h
    next e he =>
      split at h
      · cases h
      next o rest' ho =>
        split at h
        · cases h
        next j hj =>
          cases h
          rcases assemble_spec e.mnemonic o with ⟨-, k, hk, hmn, hop⟩ | ⟨-, hno⟩
          · obtain rfl : k = i := Option.some.inj (hk.symm.trans hj)
            exact ⟨op, tail, e, rfl, he, hop ▸ ho, hmn, by rw [Instr.mode, hop, takeOperand_mode ho]⟩
          · cases hno.symm.trans hj

/-- Decoding takes the length of the instruction's mode (30_encoding.md R73). -/
theorem decode_length {bytes rest : List Byte} {i : Instr} (h : decode bytes = .ok (i, rest)) :
    bytes.length = i.mode.length + rest.length := by
  obtain ⟨op, tail, e, rfl, -, htake, -, hmode⟩ := decode_ok h
  rw [hmode, List.length_cons, takeOperand_length htake]

/-- Settles O3: the lengths are read off the mode table, and the opcode byte and the operand add up to the mode's. -/
theorem decodingTakesTheModesLength : Obligations.DecodingTakesTheModesLength := by
  refine ⟨by decide, ?_, fun _ _ _ => decode_length⟩
  intro m
  cases m <;> decide

end Sys2Proof
end

section
/-! SUPPORT. What the timing rule gives a `read` and a `write` instruction (70_reset_and_hazards.md R197). -/

namespace Sys2Proof.Machine

open Sys2Proof.Safety

/-- Only the indexed absolute modes and the indexed pointer cross a page (30_encoding.md R86 to R94). -/
theorem State.pageCrossed_eq_false {m : MemOperand} (s : State) (h : m.mode ∉ [.absx, .absy, .izy]) :
    s.pageCrossed m = false := by
  cases m with
  | absx | absy | izy => exact absurd (by simp [MemOperand.mode]) h
  | zp | zpx | zpy | abs | izx => exact pageDiffers_self _

/-- The cycles of a `read` instruction on memory: its base, and one more where the mode crosses a page. -/
theorem readMem_cyc {op : Byte → State → State} {base : Nat} {m : MemOperand} {s t : State}
    (h : readMem op base m s = .next t) :
    t.cyc = base + if m.mode ∈ [.absx, .absy, .izy] then (s.pageCrossed m).toNat else 0 := by
  cases h
  by_cases hm : m.mode ∈ [.absx, .absy, .izy]
  · cases hc : s.pageCrossed m <;> simp [hm]
  · simp [hm, s.pageCrossed_eq_false hm]

/-- A `read` instruction takes the cycles of the timing rule: 2 in IMM, else those of the memory shape. -/
theorem exec_read_cyc {i : Instr} {op : Byte → State → State} (hi : readEffect i.mnemonic = some op) {s t : State}
    (h : exec i s = .next t) : t.cyc = cyclesOf i s := by
  cases i <;> cases hi
  case ldaImm | ldxImm | ldyImm | adcImm | sbcImm | andImm | oraImm | eorImm | cmpImm | cpxImm | cpyImm =>
    cases h
    rfl
  all_goals exact (readMem_cyc h).trans rfl

/-- A `write` instruction takes the cycles of the timing rule: its base, whatever pages it crosses. -/
theorem exec_store_cyc {i : Instr} {src : State → Byte} (hi : storedRegister i.mnemonic = some src) {s t : State}
    (h : exec i s = .next t) : t.cyc = cyclesOf i s := by
  cases i <;> cases hi <;> cases h <;> rfl

end Sys2Proof.Machine
end

section
/-! SUPPORT. Writing a register by its name, and the updates of the state that keep a frame, one lemma each. -/

namespace Sys2Proof.Machine

open Sys2Proof.Safety

/-- Write one of the 8-bit registers other than `P`: the counterpart of `regOf`. -/
def State.setReg (s : State) (r : Reg) (v : Byte) : State :=
  match r with
  | .a => s.setA v
  | .x => s.setX v
  | .y => s.setY v
  | .sp => s.setSP v

@[simp] theorem regOf_setNZ (s : State) (q : Reg) (v : Byte) : regOf (s.setNZ v) q = regOf s q := by cases q <;> rfl
@[simp] theorem regOf_setCyc (s : State) (q : Reg) (c : Nat) : regOf (s.setCyc c) q = regOf s q := by cases q <;> rfl

/-- A register reads as written, and every other register as before. -/
@[simp] theorem regOf_setReg (s : State) (r q : Reg) (v : Byte) :
    regOf (s.setReg r v) q = if q = r then v else regOf s q := by
  cases r <;> cases q <;> rfl

@[simp] theorem State.setReg_p (s : State) (r : Reg) (v : Byte) : (s.setReg r v).p = s.p := by cases r <;> rfl
@[simp] theorem State.setReg_pc (s : State) (r : Reg) (v : Byte) : (s.setReg r v).pc = s.pc := by cases r <;> rfl
@[simp] theorem State.peek_setReg (s : State) (r : Reg) (v : Byte) (a : Addr) : (s.setReg r v).peek a = s.peek a := by
  cases r <;> rfl

end Sys2Proof.Machine

namespace Sys2Proof.Safety

open Sys2Proof.Machine

variable {rs : List Reg} {fs : List Flag} {s u t : State}

theorem Frame.trans (h : Frame rs fs s u) (h' : Frame rs fs u t) : Frame rs fs s t where
  regs r hr := (h'.regs r hr).trans (h.regs r hr)
  flags f hf := (h'.flags f hf).trans (h.flags f hf)
  control :=
    { cfg := h'.control.cfg.trans h.control.cfg
      nmiPending := h'.control.nmiPending.trans h.control.nmiPending
      fault := h'.control.fault.trans h.control.fault
      inputs := h'.control.inputs.trans h.control.inputs }

/-- An update that touches no register and no control field is within every frame. -/
theorem Frame.of_same (ha : t.a = s.a) (hx : t.x = s.x) (hy : t.y = s.y) (hsp : t.sp = s.sp) (hp : t.p = s.p)
    (hcontrol : SameControl s t) : Frame rs fs s t where
  regs r _ := by cases r <;> assumption
  flags f _ := by rw [State.flag, State.flag, hp]
  control := hcontrol

theorem Frame.refl (rs : List Reg) (fs : List Flag) (s : State) : Frame rs fs s s :=
  .of_same rfl rfl rfl rfl rfl ⟨rfl, rfl, rfl, rfl⟩

theorem Frame.setCyc (h : Frame rs fs s t) (c : Nat) : Frame rs fs s (t.setCyc c) :=
  h.trans (.of_same rfl rfl rfl rfl rfl ⟨rfl, rfl, rfl, rfl⟩)

theorem Frame.setDraws (h : Frame rs fs s t) (d : Nat) : Frame rs fs s (t.setDraws d) :=
  h.trans (.of_same rfl rfl rfl rfl rfl ⟨rfl, rfl, rfl, rfl⟩)

theorem Frame.advance (h : Frame rs fs s t) (n : Nat) : Frame rs fs s (t.advance n) :=
  h.trans (.of_same rfl rfl rfl rfl rfl ⟨rfl, rfl, rfl, rfl⟩)

theorem Frame.busWrite (h : Frame rs fs s t) (a : Addr) (v : Byte) : Frame rs fs s (t.busWrite a v) :=
  h.trans (.of_same (t.busWrite_a a v) (t.busWrite_x a v) (t.busWrite_y a v) (t.busWrite_sp a v) (t.busWrite_p a v)
    ⟨t.busWrite_cfg a v, t.busWrite_nmiPending a v, t.busWrite_fault a v, t.busWrite_inputs a v⟩)

theorem Frame.setReg (h : Frame rs fs s t) {r : Reg} (hr : r ∈ rs) (v : Byte) : Frame rs fs s (t.setReg r v) := by
  refine h.trans ⟨fun q hq => ?_, fun f _ => ?_, ?_⟩
  · rw [regOf_setReg, if_neg (by rintro rfl; exact hq hr)]
  · rw [State.flag, State.flag, State.setReg_p]
  · cases r <;> exact ⟨rfl, rfl, rfl, rfl⟩

theorem Frame.setNZ (h : Frame rs fs s t) (hn : .n ∈ fs) (hz : .z ∈ fs) (r : Byte) : Frame rs fs s (t.setNZ r) := by
  refine h.trans ⟨fun q _ => by cases q <;> rfl, fun f hf => ?_, rfl, rfl, rfl, rfl⟩
  rw [State.flag, State.setNZ_p, getFlag_setNZ, if_neg (by rintro rfl; exact hf hn),
    if_neg (by rintro rfl; exact hf hz)]
  rfl

/-- The cycle count is no part of what a store is. -/
theorem Stores.setCyc {ea : Addr} {v : Byte} (h : Stores ea v s t) (c : Nat) : Stores ea v s (t.setCyc c) := h

end Sys2Proof.Safety
end

section
/-! PROOFS. The load and store family (40_load_store.md). -/

namespace Sys2Proof.Machine

open Sys2Proof.Safety

/-- The effect the three loads share: the operand goes to the register, and N and Z follow it (40_load_store.md R101 to
R103). -/
def loadEffect (r : Reg) (v : Byte) (s : State) : State := (s.setReg r v).setNZ v

theorem readEffect_of_load {p : Mnemonic × Reg} (h : p ∈ [(Mnemonic.lda, Reg.a), (.ldx, .x), (.ldy, .y)]) :
    readEffect p.1 = some (loadEffect p.2) := by
  simp only [List.mem_cons, List.not_mem_nil, or_false] at h
  rcases h with rfl | rfl | rfl <;> rfl

theorem storedRegister_of_store {p : Mnemonic × Reg} (h : p ∈ [(Mnemonic.sta, Reg.a), (.stx, .x), (.sty, .y)]) :
    storedRegister p.1 = some (regOf · p.2) := by
  simp only [List.mem_cons, List.not_mem_nil, or_false] at h
  rcases h with rfl | rfl | rfl <;> rfl

/-- Settles O35: each load is a `read` instruction whose effect is `loadEffect` of its register. -/
theorem loadsWriteTheirRegister : Obligations.LoadsWriteTheirRegister := by
  refine ⟨encodedBy_of_check (by decide +kernel), encodedBy_of_check (by decide +kernel),
    encodedBy_of_check (by decide +kernel), fun p hp i s hi => ?_⟩
  have hload : readEffect i.mnemonic = some (loadEffect p.2) := hi ▸ readEffect_of_load hp
  obtain ⟨d, c, hexec⟩ := exec_read hload s
  refine ⟨_, ⟨hexec, exec_read_cyc hload hexec⟩, ?_, followsNZ_of_setNZ rfl, ?_, fun a => ?_, ?_⟩
  · simp [loadEffect]
  · exact (((((Frame.refl _ _ s).setDraws d).advance _).setReg (by simp) _).setNZ (by simp) (by simp) _).setCyc c
  · simp [loadEffect]
  · simp [loadEffect, nextPC]

/-- Settles O36: each store is a `write` instruction, one bus write from the state past the instruction. -/
theorem storesWriteOneByte : Obligations.StoresWriteOneByte := by
  refine ⟨encodedBy_of_check (by decide +kernel), encodedBy_of_check (by decide +kernel),
    encodedBy_of_check (by decide +kernel), fun p hp i s hi hm => ?_⟩
  have hstore : storedRegister i.mnemonic = some (regOf · p.2) := hi ▸ storedRegister_of_store hp
  obtain ⟨c, hexec⟩ := exec_store hstore s
  refine ⟨_, ⟨hexec, exec_store_cyc hstore hexec⟩, ?_, ?_, ?_, ?_⟩
  · exact (stores_busWrite (u := s.advance i.mode.length) hm rfl rfl _ _).setCyc c
  · exact (((Frame.refl _ _ s).advance _).busWrite _ _).setCyc c
  · simp
  · simp [nextPC]

end Sys2Proof.Machine
end

section
/-! SUPPORT and PROOFS. The arithmetic family (41_arithmetic.md): the adder as numbers, and the two instructions as one
addition each. -/

namespace Sys2Proof.Safety

open Sys2Proof.Machine

theorem Frame.setFlag {rs : List Reg} {fs : List Flag} {s t : State} (h : Frame rs fs s t) {f : Flag} (hf : f ∈ fs)
    (b : Bool) : Frame rs fs s (t.setFlag f b) := by
  refine h.trans ⟨fun q _ => by cases q <;> rfl, fun g hg => ?_, rfl, rfl, rfl, rfl⟩
  rw [State.flag, State.setFlag_p, getFlag_setFlag, if_neg (by rintro ⟨rfl, -⟩; exact hg hf)]
  rfl

end Sys2Proof.Safety

namespace Sys2Proof.Machine

open Sys2Proof.Safety

/-! ### The adder -/

theorem add8_r_toNat (a b : Byte) (cin : Bool) :
    (add8 a b cin).r.toNat = (a.toNat + b.toNat + cin.toNat) % 256 := BitVec.toNat_ofNat _ 8

theorem add8_c_iff (a b : Byte) (cin : Bool) : (add8 a b cin).c = true ↔ a.toNat + b.toNat + cin.toNat > 255 :=
  decide_eq_true_iff

/-- The mask `$80` tests the sign bit. -/
theorem and_0x80_ne_zero (x : Byte) : (x &&& 0x80 != 0) = x.msb := by
  revert x
  decide +kernel

/-- The overflow as R108's rule on the three sign bits. -/
theorem add8_v_eq_signRule (a b : Byte) (cin : Bool) :
    (add8 a b cin).v = (a.msb == b.msb && (add8 a b cin).r.msb != a.msb) := by
  have hv : (add8 a b cin).v = (~~~(a ^^^ b) &&& (a ^^^ (add8 a b cin).r)).msb := and_0x80_ne_zero _
  rw [hv, BitVec.msb_and, BitVec.msb_not, BitVec.msb_xor, BitVec.msb_xor]
  cases a.msb <;> cases b.msb <;> cases (add8 a b cin).r.msb <;> rfl

/-- The sign rule is the signed sum's range: written with the bytes' numbers, both say on which side of 128 the operands
and the result lie. -/
theorem add8_v_iff (a b : Byte) (cin : Bool) : (add8 a b cin).v = true ↔
    ¬(-128 ≤ a.toInt + b.toInt + cin.toNat ∧ a.toInt + b.toInt + cin.toNat ≤ 127) := by
  have hcin := cin.toNat_le
  have hr := add8_r_toNat a b cin
  rw [add8_v_eq_signRule, Bool.and_eq_true, beq_iff_eq, bne_iff_ne, BitVec.msb_eq_decide, BitVec.msb_eq_decide,
    BitVec.msb_eq_decide, BitVec.toInt_eq_toNat_cond, BitVec.toInt_eq_toNat_cond, ne_eq, decide_eq_decide,
    decide_eq_decide, hr]
  have ha := a.isLt
  have hb := b.isLt
  split <;> split <;> omega

/-- Settles O39: the parts are the rules of the adder's three answers. -/
theorem adderOverflowIsTheSignRule : Obligations.AdderOverflowIsTheSignRule := fun a b cin =>
  ⟨add8_r_toNat a b cin, add8_c_iff a b cin, add8_v_eq_signRule a b cin, add8_v_iff a b cin⟩

/-! ### The addition that ADC and SBC share -/

theorem setSum_flag_c (q : AddResult) (s : State) : (setSum q s).flag .c = q.c := by simp [setSum, State.flag]

theorem setSum_flag_v (q : AddResult) (s : State) : (setSum q s).flag .v = q.v := by simp [setSum, State.flag]

/-- An addition changes A, N, V, Z and C only. -/
theorem setSum_frame {s t : State} (h : Frame [.a] [.n, .v, .z, .c] s t) (q : AddResult) :
    Frame [.a] [.n, .v, .z, .c] s (setSum q t) :=
  (((h.setReg (r := .a) (by simp) q.r).setFlag (f := .c) (by simp) q.c).setFlag (f := .v) (by simp) q.v).setNZ
    (by simp) (by simp) q.r

/-- The effect ADC and SBC share: the adder on the accumulator, the operand byte put through `f`, and the carry
(41_arithmetic.md R109, R110). -/
def addEffect (f : Byte → Byte) (m : Byte) (s : State) : State := setSum (add8 s.a (f m) (s.flag .c)) s

/-- What a `read` instruction whose effect is `addEffect` answers: the adder's three answers in A, C and V, with N and Z
after A, and everything else as before. -/
theorem exec_addition {i : Instr} {f : Byte → Byte} (hi : readEffect i.mnemonic = some (addEffect f)) (s : State) :
    ∃ t, Completes i s t ∧
      t.a = (add8 s.a (f (operandByte s i.operand)) (s.flag .c)).r ∧
      t.flag .c = (add8 s.a (f (operandByte s i.operand)) (s.flag .c)).c ∧
      t.flag .v = (add8 s.a (f (operandByte s i.operand)) (s.flag .c)).v ∧
      FollowsNZ t.a t ∧ Frame [.a] [.n, .v, .z, .c] s t ∧ SameMemory s t ∧ t.pc = nextPC i s := by
  obtain ⟨d, c, hexec⟩ := exec_read hi s
  have hframe := ((Frame.refl [.a] [.n, .v, .z, .c] s).setDraws d).advance i.mode.length
  refine ⟨_, ⟨hexec, exec_read_cyc hi hexec⟩, rfl, setSum_flag_c _ _, setSum_flag_v _ _, followsNZ_of_setNZ rfl,
    (setSum_frame hframe _).setCyc c, fun a => ?_, rfl⟩
  simp [addEffect, setSum]

/-! ### ADC -/

/-- Settles O37: ADC is the addition of the operand byte itself. -/
theorem adcAddsWithCarry : Obligations.AdcAddsWithCarry := by
  refine ⟨encodedBy_of_check (by decide +kernel), fun i s hi => ?_⟩
  have hadd : readEffect i.mnemonic = some (addEffect id) := by rw [hi]; rfl
  obtain ⟨t, hdone, ha, hc, hv, hrest⟩ := exec_addition hadd s
  exact ⟨t, hdone, ha ▸ add8_r_toNat _ _ _, hc ▸ add8_c_iff _ _ _, hv ▸ add8_v_iff _ _ _, hrest⟩

/-! ### SBC -/

/-- The complement as a number: 256 more than `−M − 1`, so that the carry out tells the difference's sign (R110). -/
theorem toNat_complement (m : Byte) : ((m ^^^ 0xFF).toNat : Int) = 255 - m.toNat := by
  rw [show m ^^^ 0xFF = ~~~m from BitVec.xor_allOnes, BitVec.toNat_not]
  omega

/-- The complement as a signed number. -/
theorem toInt_complement (m : Byte) : (m ^^^ 0xFF).toInt = -1 - m.toInt := by
  have hnat := toNat_complement m
  have hm := m.isLt
  rw [BitVec.toInt_eq_toNat_cond, BitVec.toInt_eq_toNat_cond]
  split <;> split <;> omega

/-- Settles O38: SBC is the addition of the operand byte's complement. -/
theorem sbcSubtractsWithBorrow : Obligations.SbcSubtractsWithBorrow := by
  refine ⟨encodedBy_of_check (by decide +kernel), fun i s hi => ?_⟩
  have hsub : readEffect i.mnemonic = some (addEffect (· ^^^ 0xFF)) := by rw [hi]; rfl
  obtain ⟨t, hdone, ha, hc, hv, hrest⟩ := exec_addition hsub s
  have hnat := toNat_complement (operandByte s i.operand)
  have hint := toInt_complement (operandByte s i.operand)
  refine ⟨t, hdone, ?_, ?_, ?_, hrest⟩
  · rw [ha, add8_r_toNat]
    omega
  · rw [hc, add8_c_iff]
    omega
  · rw [hv, add8_v_iff]
    omega

end Sys2Proof.Machine
end

section
/-! SUPPORT and PROOFS. The logical family (42_logical.md): the effect AND, ORA and EOR share, and the three flags of BIT. -/

namespace Sys2Proof.Machine

open Sys2Proof.Safety

/-! ### AND, ORA and EOR -/

/-- The effect the three share: `f` of the accumulator and the operand goes to A, and N and Z follow it
(42_logical.md R112 to R114). -/
def logicEffect (f : Byte → Byte → Byte) (m : Byte) (s : State) : State := loadEffect .a (f s.a m) s

/-- What a `read` instruction whose effect is `logicEffect` answers. -/
theorem exec_logic {i : Instr} {f : Byte → Byte → Byte} (hi : readEffect i.mnemonic = some (logicEffect f)) (s : State) :
    ∃ t, Completes i s t ∧ t.a = f s.a (operandByte s i.operand) ∧
      FollowsNZ t.a t ∧ Frame [.a] [.n, .z] s t ∧ SameMemory s t ∧ t.pc = nextPC i s := by
  obtain ⟨d, c, hexec⟩ := exec_read hi s
  have hframe := ((Frame.refl [.a] [.n, .z] s).setDraws d).advance i.mode.length
  refine ⟨_, ⟨hexec, exec_read_cyc hi hexec⟩, rfl, followsNZ_of_setNZ rfl,
    ((hframe.setReg (by simp) _).setNZ (by simp) (by simp) _).setCyc c, fun a => ?_, rfl⟩
  simp [logicEffect, loadEffect]

/-- Settles O40: each of the three is `logicEffect` of its operation on bytes, which works bit by bit. -/
theorem logicIsBitwise : Obligations.LogicIsBitwise := by
  refine ⟨encodedBy_of_check (by decide +kernel), encodedBy_of_check (by decide +kernel),
    encodedBy_of_check (by decide +kernel), fun i s hi => ?_⟩
  simp only [List.mem_cons, List.not_mem_nil, or_false] at hi
  rcases hi with hand | hora | heor
  · obtain ⟨t, hdone, ha, hrest⟩ := exec_logic (f := and8) (by rw [hand]; rfl) s
    exact ⟨t, hdone, fun k _ => by rw [ha, hand]; exact BitVec.getLsbD_and, hrest⟩
  · obtain ⟨t, hdone, ha, hrest⟩ := exec_logic (f := or8) (by rw [hora]; rfl) s
    exact ⟨t, hdone, fun k _ => by rw [ha, hora]; exact BitVec.getLsbD_or, hrest⟩
  · obtain ⟨t, hdone, ha, hrest⟩ := exec_logic (f := xor8) (by rw [heor]; rfl) s
    exact ⟨t, hdone, fun k _ => by rw [ha, heor]; exact BitVec.getLsbD_xor, hrest⟩

/-! ### BIT -/

/-- The AND of two bytes is zero where they have no common bit (42_logical.md R111). -/
theorem and8_eq_zero_iff (a b : Byte) : and8 a b = 0 ↔ ∀ k < 8, ¬(a.getLsbD k = true ∧ b.getLsbD k = true) := by
  simp only [BitVec.eq_of_getLsbD_eq_iff, and8, BitVec.getLsbD_and, BitVec.ofNat_eq_ofNat, BitVec.getLsbD_zero,
    ← Bool.and_eq_true, Bool.not_eq_true]

theorem State.flag_setCyc (s : State) (c : Nat) (f : Flag) : (s.setCyc c).flag f = s.flag f := rfl

theorem bitEffect_flag_z (m : Byte) (s : State) : (bitEffect m s).flag .z = (and8 s.a m == 0) := by
  simp [bitEffect, State.flag]

theorem bitEffect_flag_n (m : Byte) (s : State) : (bitEffect m s).flag .n = m.getLsbD 7 := by
  simp [bitEffect, State.flag]

theorem bitEffect_flag_v (m : Byte) (s : State) : (bitEffect m s).flag .v = m.getLsbD 6 := by
  simp [bitEffect, State.flag]

/-- BIT changes no register, and the flags N, V and Z only. -/
theorem bitEffect_frame {s t : State} (h : Frame [] [.n, .v, .z] s t) (m : Byte) :
    Frame [] [.n, .v, .z] s (bitEffect m t) :=
  ((h.setFlag (by simp) _).setFlag (by simp) _).setFlag (by simp) _

/-- Settles O41: BIT is the `read` instruction whose effect is `bitEffect`. -/
theorem bitTestsItsOperand : Obligations.BitTestsItsOperand := by
  refine ⟨encodedBy_of_check (by decide +kernel), fun i s hi => ?_⟩
  have hbit : readEffect i.mnemonic = some bitEffect := by rw [hi]; rfl
  obtain ⟨d, c, hexec⟩ := exec_read hbit s
  have hframe := ((Frame.refl [] [.n, .v, .z] s).setDraws d).advance i.mode.length
  refine ⟨_, ⟨hexec, exec_read_cyc hbit hexec⟩, ?_, ?_, ?_, (bitEffect_frame hframe _).setCyc c, fun a => ?_, rfl⟩
  · rw [State.flag_setCyc, bitEffect_flag_z, beq_iff_eq]
    exact and8_eq_zero_iff _ _
  · rw [State.flag_setCyc, bitEffect_flag_n]
  · rw [State.flag_setCyc, bitEffect_flag_v]
  · simp [bitEffect]

end Sys2Proof.Machine
end

section
/-! SUPPORT and PROOFS. The shift and rotate family (43_shift_rotate.md): the ALU's shifts as numbers, and the effect the
four instructions share. -/

namespace Sys2Proof.Machine

open Sys2Proof.Safety

/-! ### The ALU's shifts as numbers (43_shift_rotate.md R116) -/

theorem getLsbD_seven_eq_decide (v : Byte) : v.getLsbD 7 = decide (128 ≤ v.toNat) :=
  v.msb_eq_getLsbD_last.symm.trans v.msb_eq_decide

theorem getLsbD_zero_eq_decide (v : Byte) : v.getLsbD 0 = decide (v.toNat % 2 = 1) := Nat.testBit_zero v.toNat

theorem shl8_toNat (v : Byte) : (shl8 v).1.toNat = v.toNat * 2 % 256 := by
  rw [shl8, BitVec.toNat_shiftLeft, Nat.shiftLeft_eq]

theorem shr8_toNat (v : Byte) : (shr8 v).1.toNat = v.toNat / 2 := by
  rw [shr8, BitVec.toNat_ushiftRight, Nat.shiftRight_eq_div_pow]

/-- The carry comes in at the bit that the shift left free. -/
theorem rol8_toNat (v : Byte) (c : Bool) : (rol8 v c).1.toNat = (v.toNat * 2 + c.toNat) % 256 := by
  revert v
  cases c <;> decide +kernel

/-- The carry comes in at bit 7, which the shift left free. -/
theorem ror8_toNat (v : Byte) (c : Bool) : (ror8 v c).1.toNat = c.toNat * 128 + v.toNat / 2 := by
  revert v
  cases c <;> decide +kernel

/-! ### The effect the four share -/

/-- The ALU function of a shift or rotate, of its operand and the carry (43_shift_rotate.md R117 to R120). -/
def shiftAlu (m : Mnemonic) (v : Byte) (c : Bool) : Byte × Bool :=
  match m with
  | .asl => shl8 v
  | .lsr => shr8 v
  | .rol => rol8 v c
  | _ => ror8 v c

/-- The effect of a shift or rotate on its operand. -/
def shiftEffect (m : Mnemonic) (v : Byte) (s : State) : Byte × State := shiftResult (shiftAlu m v (s.flag .c)) s

section

variable {m : Mnemonic} (hm : m ∈ [.asl, .lsr, .rol, .ror])
include hm

theorem shift_cases : m = .asl ∨ m = .lsr ∨ m = .rol ∨ m = .ror := by simpa using hm

theorem rmwEffect_of_shift : rmwEffect m = some (shiftEffect m) := by
  rcases shift_cases hm with rfl | rfl | rfl | rfl <;> rfl

/-- The result is the statements' `shiftValue`. -/
theorem shiftAlu_fst_toNat (v : Byte) (c : Bool) : (shiftAlu m v c).1.toNat = shiftValue m v.toNat c := by
  rcases shift_cases hm with rfl | rfl | rfl | rfl
  · exact shl8_toNat v
  · exact shr8_toNat v
  · exact rol8_toNat v c
  · exact ror8_toNat v c

/-- The bit shifted out is the statements' `shiftCarry`: bit 7 to the left, bit 0 to the right. -/
theorem shiftAlu_snd (v : Byte) (c : Bool) : (shiftAlu m v c).2 = shiftCarry m v.toNat := by
  rcases shift_cases hm with rfl | rfl | rfl | rfl
  · exact getLsbD_seven_eq_decide v
  · exact getLsbD_zero_eq_decide v
  · exact getLsbD_seven_eq_decide v
  · exact getLsbD_zero_eq_decide v

end

theorem getFlag_shiftResult_c (q : Byte × Bool) (s : State) : getFlag (shiftResult q s).2.p .c = q.2 := by
  simp [shiftResult]

/-- A shift changes the flags N, Z and C only. -/
theorem shiftResult_frame {rs : List Reg} {s t : State} (h : Frame rs [.n, .z, .c] s t) (q : Byte × Bool) :
    Frame rs [.n, .z, .c] s (shiftResult q t).2 :=
  (h.setFlag (by simp) q.2).setNZ (by simp) (by simp) q.1

/-! ### The instructions -/

/-- A `rmw` instruction takes the cycles of the timing rule: its base, whatever pages it crosses
(70_reset_and_hazards.md R197). -/
theorem exec_rmw_cyc {i : Instr} {op : Byte → State → Byte × State} (hi : rmwEffect i.mnemonic = some op) {s t : State}
    (h : exec i s = .next t) : t.cyc = cyclesOf i s := by
  cases i <;> cases hi <;> cases h <;> rfl

section

variable {i : Instr} (hi : i.mnemonic ∈ [.asl, .lsr, .rol, .ror]) (s : State) {q : Byte × Bool}
include hi

/-- What a shift of the accumulator answers: the ALU's result in A, N and Z after it, and the bit shifted out in C. -/
theorem exec_shift_acc (hacc : i.mode = .acc) (hq : q = shiftAlu i.mnemonic s.a (s.flag .c)) :
    ∃ t, Completes i s t ∧ t.a = q.1 ∧ t.flag .c = q.2 ∧ FollowsNZ t.a t ∧
      Frame [.a] [.n, .z, .c] s t ∧ SameMemory s t ∧ t.pc = nextPC i s := by
  subst hq
  obtain ⟨c, hexec⟩ := exec_rmw_acc (rmwEffect_of_shift hi) hacc s
  have hframe := (Frame.refl [.a] [.n, .z, .c] s).advance i.mode.length
  exact ⟨_, ⟨hexec, exec_rmw_cyc (rmwEffect_of_shift hi) hexec⟩, rfl, getFlag_shiftResult_c _ _, followsNZ_of_setNZ rfl,
    ((shiftResult_frame hframe _).setReg (r := .a) (by simp) _).setCyc c, fun _ => rfl, rfl⟩

/-- What a shift of memory answers: the ALU's result stored where the operand was read, N and Z after it, and the bit
shifted out in C. -/
theorem exec_shift_mem (hacc : i.mode ≠ .acc) (hm : Memory.wf s.mem = true)
    (hq : q = shiftAlu i.mnemonic (operandByte s i.operand) (s.flag .c)) :
    ∃ t, Completes i s t ∧ Stores (effectiveAddr s i.operand) q.1 s t ∧ t.flag .c = q.2 ∧ FollowsNZ q.1 t ∧
      Frame [] [.n, .z, .c] s t ∧ t.pc = nextPC i s := by
  subst hq
  obtain ⟨d, c, hexec⟩ := exec_rmw (rmwEffect_of_shift hi) hacc s
  have hframe := ((Frame.refl [] [.n, .z, .c] s).setDraws d).advance i.mode.length
  refine ⟨_, ⟨hexec, exec_rmw_cyc (rmwEffect_of_shift hi) hexec⟩, ?_, ?_, ?_,
    ((shiftResult_frame hframe _).busWrite _ _).setCyc c, ?_⟩
  · exact (stores_busWrite (u := (shiftResult _ ((s.setDraws d).advance i.mode.length)).2) hm rfl rfl _ _).setCyc c
  · rw [State.flag_setCyc, State.flag, State.busWrite_p]
    exact getFlag_shiftResult_c _ _
  · exact followsNZ_of_setNZ (State.busWrite_p _ _ _)
  · exact State.busWrite_pc _ _ _

end

/-- Settles O42: a shift answers what the ALU answers, in A or in memory, and that is R116 in numbers. -/
theorem shiftsAndRotates : Obligations.ShiftsAndRotates := by
  refine ⟨encodedBy_of_check (by decide +kernel), encodedBy_of_check (by decide +kernel),
    encodedBy_of_check (by decide +kernel), encodedBy_of_check (by decide +kernel),
    fun i s hi => ⟨fun hacc => ?_, fun hmem hm => ?_⟩⟩
  · obtain ⟨t, hdone, ha, hc, hrest⟩ := exec_shift_acc hi s hacc rfl
    exact ⟨t, hdone, ha ▸ shiftAlu_fst_toNat hi _ _, hc.trans (shiftAlu_snd hi _ _), hrest⟩
  · obtain ⟨t, hdone, hstore, hc, hrest⟩ := exec_shift_mem hi s hmem hm rfl
    exact ⟨t, _, hdone, shiftAlu_fst_toNat hi _ _, hstore, hc.trans (shiftAlu_snd hi _ _), hrest⟩

end Sys2Proof.Machine
end

section
/-! SUPPORT and PROOFS. The compare family (44_compare.md): the flags of a comparison as the order of two numbers, and the
effect the three instructions share. -/

namespace Sys2Proof.Machine

open Sys2Proof.Safety

/-! ### The ALU's comparison as an order (44_compare.md R121) -/

theorem cmp8_c_iff (p r m : Byte) : getFlag (cmp8 p r m) .c = true ↔ m.toNat ≤ r.toNat := by
  rw [getFlag_cmp8]
  exact decide_eq_true_iff

theorem cmp8_z_iff (p r m : Byte) : getFlag (cmp8 p r m) .z = true ↔ r = m := by
  rw [getFlag_cmp8]
  exact beq_iff_eq

/-- N is bit 7 of the difference, taken modulo 256 whichever operand is the larger. -/
theorem cmp8_n_iff (p r m : Byte) :
    getFlag (cmp8 p r m) .n = true ↔ 128 ≤ (r.toNat + 256 - m.toNat) % 256 := by
  have hm := m.isLt
  rw [getFlag_cmp8, if_pos rfl, BitVec.msb_eq_decide, decide_eq_true_iff, BitVec.toNat_sub]
  omega

/-! ### The effect the three share -/

/-- The effect of a comparison of a register with its operand (44_compare.md R122 to R124). -/
def compareEffect (r : Reg) (m : Byte) (s : State) : State := s.setP (cmp8 s.p (regOf s r) m)

theorem readEffect_of_compare {p : Mnemonic × Reg} (h : p ∈ [(Mnemonic.cmp, Reg.a), (.cpx, .x), (.cpy, .y)]) :
    readEffect p.1 = some (compareEffect p.2) := by
  simp only [List.mem_cons, List.not_mem_nil, or_false] at h
  rcases h with rfl | rfl | rfl <;> rfl

/-- A comparison changes no register, and the flags N, Z and C only. -/
theorem compareEffect_frame {s t : State} (h : Frame [] [.n, .z, .c] s t) (r : Reg) (m : Byte) :
    Frame [] [.n, .z, .c] s (compareEffect r m t) :=
  ((h.setFlag (f := .c) (by simp) _).setFlag (f := .z) (by simp) _).setFlag (f := .n) (by simp) _

/-- Settles O43: each of the three is the `read` instruction whose effect is `compareEffect` of its register. -/
theorem comparesSetTheOrder : Obligations.ComparesSetTheOrder := by
  refine ⟨encodedBy_of_check (by decide +kernel), encodedBy_of_check (by decide +kernel),
    encodedBy_of_check (by decide +kernel), fun p hp i s hi => ?_⟩
  have hcompare : readEffect i.mnemonic = some (compareEffect p.2) := hi ▸ readEffect_of_compare hp
  obtain ⟨d, c, hexec⟩ := exec_read hcompare s
  have hframe := ((Frame.refl [] [.n, .z, .c] s).setDraws d).advance i.mode.length
  have hreg : regOf ((s.setDraws d).advance i.mode.length) p.2 = regOf s p.2 := hframe.regs p.2 (by simp)
  refine ⟨_, ⟨hexec, exec_read_cyc hcompare hexec⟩, ?_, ?_, ?_, (compareEffect_frame hframe _ _).setCyc c,
    fun a => ?_, rfl⟩
  · exact hreg ▸ cmp8_c_iff _ _ _
  · exact hreg ▸ cmp8_z_iff _ _ _
  · exact hreg ▸ cmp8_n_iff _ _ _
  · simp [compareEffect]

end Sys2Proof.Machine
end

section
/-! SUPPORT and PROOFS. The increment and decrement family (45_inc_dec.md): a step by one as a number, and its effect on
memory and on a register. -/

namespace Sys2Proof

/-- Every instruction is in a mode the rules give its mnemonic. -/
theorem mode_mem_modes (i : Instr) : i.mode ∈ i.mnemonic.modes := by
  obtain ⟨e, he, hmn, hmode⟩ := decodeOpcode_opcode i
  have hrow := mode_of_mem (decodeOpcode_spec he).1
  rw [hmn, hmode] at hrow
  exact List.contains_iff_mem.mp hrow

end Sys2Proof

namespace Sys2Proof.Machine

open Sys2Proof.Safety

/-! ### The steps as numbers (45_inc_dec.md R125) -/

theorem inc8_toNat (v : Byte) : (inc8 v).toNat = (v.toNat + 1) % 256 := toNat_add_one_byte v

theorem dec8_toNat (v : Byte) : (dec8 v).toNat = (v.toNat + 255) % 256 := toNat_sub_one_byte v

/-! ### Memory -/

/-- The effect INC and DEC share: `f` of the operand is the result, and N and Z follow it (45_inc_dec.md R126, R127). -/
def stepEffect (f : Byte → Byte) (v : Byte) (s : State) : Byte × State := (f v, s.setNZ (f v))

/-- What a `rmw` instruction on memory whose effect is `stepEffect` of an addition of `n` answers: the result is stored
where the operand was read. -/
theorem exec_step_mem {i : Instr} {f : Byte → Byte} {n : Nat} (hf : ∀ v, (f v).toNat = (v.toNat + n) % 256)
    (hi : rmwEffect i.mnemonic = some (stepEffect f)) (hacc : i.mode ≠ .acc) {s : State} (hm : Memory.wf s.mem = true) :
    ∃ t res, Completes i s t ∧ res.toNat = ((operandByte s i.operand).toNat + n) % 256 ∧
      Stores (effectiveAddr s i.operand) res s t ∧ FollowsNZ res t ∧ Frame [] [.n, .z] s t ∧ t.pc = nextPC i s := by
  obtain ⟨d, c, hexec⟩ := exec_rmw hi hacc s
  have hframe := ((Frame.refl [] [.n, .z] s).setDraws d).advance i.mode.length
  refine ⟨_, _, ⟨hexec, exec_rmw_cyc hi hexec⟩, hf _, ?_, followsNZ_of_setNZ (State.busWrite_p _ _ _),
    ((hframe.setNZ (by simp) (by simp) _).busWrite _ _).setCyc c, State.busWrite_pc _ _ _⟩
  exact (stores_busWrite (u := (stepEffect f _ ((s.setDraws d).advance i.mode.length)).2) hm rfl rfl _ _).setCyc c

/-- Settles O44: the two are the `rmw` instructions whose effect is `stepEffect` of the ALU's step, and neither has the
accumulator's mode. -/
theorem incrementsOfMemory : Obligations.IncrementsOfMemory := by
  refine ⟨encodedBy_of_check (by decide +kernel), encodedBy_of_check (by decide +kernel), fun p hp i s hi hm => ?_⟩
  have hacc (h : .acc ∉ p.1.modes) : i.mode ≠ .acc := ne_of_mem_of_not_mem (hi ▸ mode_mem_modes i) h
  simp only [List.mem_cons, List.not_mem_nil, or_false] at hp
  rcases hp with rfl | rfl
  · exact exec_step_mem inc8_toNat (by rw [hi]; rfl) (hacc (by decide)) hm
  · exact exec_step_mem dec8_toNat (by rw [hi]; rfl) (hacc (by decide)) hm

/-! ### Index registers -/

/-- What an `implied` instruction that writes `v` to a register, with N and Z after it, answers. -/
theorem exec_implied_load {i : Instr} {r : Reg} {v : Byte} {s : State}
    (hexec : exec i s = .next ((loadEffect r v (s.advance 1)).setCyc 2)) (hcyc : cyclesOf i s = 2) :
    ∃ t, Completes i s t ∧ regOf t r = v ∧ FollowsNZ (regOf t r) t ∧ Frame [r] [.n, .z] s t ∧ SameMemory s t ∧
      t.pc = s.pc + 1 := by
  have hreg : regOf ((loadEffect r v (s.advance 1)).setCyc 2) r = v := by simp [loadEffect]
  refine ⟨_, ⟨hexec, hcyc.symm⟩, hreg, hreg.symm ▸ followsNZ_of_setNZ rfl, ?_, fun a => ?_, ?_⟩
  · exact ((((Frame.refl _ _ s).advance 1).setReg (by simp) v).setNZ (by simp) (by simp) v).setCyc 2
  · simp [loadEffect]
  · simp [loadEffect]

/-- What an `implied` instruction that adds `n` to a register, with N and Z after it, answers. -/
theorem exec_step_reg {i : Instr} {r : Reg} {f : Byte → Byte} {n : Nat} (hf : ∀ v, (f v).toNat = (v.toNat + n) % 256)
    {s : State} (hexec : exec i s = .next ((loadEffect r (f (regOf s r)) (s.advance 1)).setCyc 2))
    (hcyc : cyclesOf i s = 2) :
    ∃ t, Completes i s t ∧ (regOf t r).toNat = ((regOf s r).toNat + n) % 256 ∧ FollowsNZ (regOf t r) t ∧
      Frame [r] [.n, .z] s t ∧ SameMemory s t ∧ t.pc = s.pc + 1 := by
  obtain ⟨t, hdone, hr, hrest⟩ := exec_implied_load hexec hcyc
  exact ⟨t, hdone, hr ▸ hf _, hrest⟩

/-- Settles O45: each of the four writes the ALU's step of its register back to it. -/
theorem incrementsOfIndexRegisters : Obligations.IncrementsOfIndexRegisters := by
  refine ⟨encodedBy_of_check (by decide +kernel), encodedBy_of_check (by decide +kernel),
    encodedBy_of_check (by decide +kernel), encodedBy_of_check (by decide +kernel), fun p hp s => ?_⟩
  simp only [List.mem_cons, List.not_mem_nil, or_false] at hp
  rcases hp with rfl | rfl | rfl | rfl
  · exact exec_step_reg inc8_toNat rfl rfl
  · exact exec_step_reg inc8_toNat rfl rfl
  · exact exec_step_reg dec8_toNat rfl rfl
  · exact exec_step_reg dec8_toNat rfl rfl

end Sys2Proof.Machine
end

section
/-! SUPPORT and PROOFS. The branch family (46_branch.md): where a branch goes, as a number, and the one state all eight
answer. -/

namespace Sys2Proof.Safety

open Sys2Proof.Machine

theorem Frame.setPC {rs : List Reg} {fs : List Flag} {s t : State} (h : Frame rs fs s t) (a : Addr) :
    Frame rs fs s (t.setPC a) :=
  h.trans (.of_same rfl rfl rfl rfl rfl ⟨rfl, rfl, rfl, rfl⟩)

end Sys2Proof.Safety

namespace Sys2Proof.Machine

open Sys2Proof.Safety

/-- Where a branch goes: to its target where it is taken, else to the next instruction (46_branch.md R132). -/
def branchPC (taken : Bool) (pc0 : Addr) (d : Byte) : Addr := if taken then branchTarget pc0 d else pc0 + 2

theorem toNat_add_two (a : Addr) : (a + 2).toNat = (a.toNat + 2) % 65536 := toNat_add_ofNat a 2

/-- The target of a branch as a number: the displacement is signed, and the sum wraps (30_encoding.md R95). -/
theorem toNat_branchTarget (pc0 : Addr) (d : Byte) :
    ((branchTarget pc0 d).toNat : Int) = ((pc0.toNat : Int) + 2 + d.toInt) % 65536 := by
  have hd := toNat_sext16 d
  rw [branchTarget, BitVec.toNat_add, toNat_add_two]
  omega

theorem toNat_branchPC (taken : Bool) (pc0 : Addr) (d : Byte) :
    ((branchPC taken pc0 d).toNat : Int) = ((pc0.toNat : Int) + 2 + if taken then d.toInt else 0) % 65536 := by
  cases taken with
  | true => exact toNat_branchTarget pc0 d
  | false =>
    have hnext : (branchPC false pc0 d).toNat = (pc0.toNat + 2) % 65536 := toNat_add_two pc0
    simp only [Bool.false_eq_true, if_false]
    omega

/-- The cycles of a branch: 2, one more where it is taken, and one more where its target lies in another page than the
next instruction (70_reset_and_hazards.md R197). -/
theorem cyclesOf_branch {i : Instr} {d : Byte} (h : i.operand = .rel d) (s : State) :
    cyclesOf i s =
      2 + if branchTaken i.mnemonic s then 1 + (pageDiffers (s.pc + 2) (branchTarget s.pc d)).toNat else 0 := by
  have hmode : i.mode = .rel := by rw [Instr.mode, h]; rfl
  have hpenalty : pagePenaltyOf i.mnemonic .rel = false := by simp [pagePenaltyOf]
  have hcrossed : (s.resolve i.operand).pageCrossed = pageDiffers (s.pc + 2) (branchTarget s.pc d) := by rw [h]; rfl
  rw [cyclesOf, hmode, hpenalty, hcrossed]
  rfl

/-- What a branch answers: `PC` where its condition says, `CYC` by the timing rule, and nothing else. -/
theorem exec_branch_eq {i : Instr} {d : Byte} (h : i.operand = .rel d) (s : State) :
    exec i s = .next ((s.setPC (branchPC (branchTaken i.mnemonic s) s.pc d)).setCyc (cyclesOf i s)) := by
  rw [exec_branch h, branchIf, cyclesOf_branch h]
  cases branchTaken i.mnemonic s with
  | true => cases pageDiffers (s.pc + 2) (branchTarget s.pc d) <;> rfl
  | false => rfl

/-- Settles O46: each of the eight is a relative instruction, and its condition is that of its mnemonic. -/
theorem branchesFollowTheirCondition : Obligations.BranchesFollowTheirCondition := by
  refine ⟨encodedBy_of_check (by decide +kernel), encodedBy_of_check (by decide +kernel),
    encodedBy_of_check (by decide +kernel), encodedBy_of_check (by decide +kernel),
    encodedBy_of_check (by decide +kernel), encodedBy_of_check (by decide +kernel),
    encodedBy_of_check (by decide +kernel), encodedBy_of_check (by decide +kernel), fun s d i cond hi => ?_⟩
  obtain ⟨hrel, rfl⟩ : i.operand = .rel d ∧ branchTaken i.mnemonic s = cond := by
    simp only [List.mem_cons, List.not_mem_nil, or_false, Prod.mk.injEq] at hi
    rcases hi with ⟨rfl, rfl⟩ | ⟨rfl, rfl⟩ | ⟨rfl, rfl⟩ | ⟨rfl, rfl⟩ | ⟨rfl, rfl⟩ | ⟨rfl, rfl⟩ | ⟨rfl, rfl⟩ |
      ⟨rfl, rfl⟩ <;> exact ⟨rfl, rfl⟩
  exact ⟨_, ⟨exec_branch_eq hrel s, rfl⟩, toNat_branchPC _ _ _, ((Frame.refl [] [] s).setPC _).setCyc _,
    fun _ => rfl, rfl⟩

end Sys2Proof.Machine
end

section
/-! SUPPORT and PROOFS. The jump, call and return family (47_jump_call_return.md): the pointer of JMP as a number, and
what a call stores and the returns pull. -/

namespace Sys2Proof.Safety

open Sys2Proof.Machine

variable {rs : List Reg} {fs : List Flag} {s t : State}

theorem Frame.afterRead (h : Frame rs fs s t) (a : Addr) : Frame rs fs s (t.afterRead a) := by
  obtain ⟨d, hd⟩ := t.afterRead_eq a
  exact hd ▸ h.setDraws d

theorem Frame.setSP (h : Frame rs fs s t) (hsp : .sp ∈ rs) (v : Byte) : Frame rs fs s (t.setSP v) := h.setReg hsp v

theorem Frame.push (h : Frame rs fs s t) (hsp : .sp ∈ rs) (v : Byte) : Frame rs fs s (t.push v) :=
  (h.busWrite _ v).setSP hsp _

end Sys2Proof.Safety

namespace Sys2Proof.Machine

open Sys2Proof.Safety

/-! ### JMP -/

/-- The address of the pointer's high byte as a number: within the pointer's page where the quirk is configured, else
the next one, modulo 65536 (30_encoding.md R92). -/
theorem jmpPointerHigh_eq (cfg : Cfg) (ptr : Addr) :
    jmpPointerHigh cfg ptr =
      if cfg.jmpIndPageWrap then BitVec.ofNat 16 (ptr.toNat / 256 * 256 + (ptr.toNat + 1) % 256)
      else BitVec.ofNat 16 ((ptr.toNat + 1) % 65536) := by
  have hnext : (ptr + 1).toNat = (ptr.toNat + 1) % 65536 := toNat_add_ofNat ptr 1
  have hlow : ((ptr + 1) &&& 0x00FF).toNat = (ptr.toNat + 1) % 256 := by
    rw [BitVec.toNat_and, show (0x00FF : Addr).toNat = 2 ^ 8 - 1 from rfl, Nat.and_two_pow_sub_one_eq_mod, hnext]
    omega
  have hdisjoint : (ptr &&& 0xFF00) &&& ((ptr + 1) &&& 0x00FF) = 0#16 :=
    calc
      _ = (ptr &&& (ptr + 1)) &&& (0xFF00 &&& 0x00FF) := by ac_rfl
      _ = 0#16 := BitVec.and_zero
  unfold jmpPointerHigh
  split
  · apply BitVec.eq_of_toNat_eq
    rw [← BitVec.add_eq_or_of_and_eq_zero _ _ hdisjoint, BitVec.toNat_add, toNat_page, hlow, BitVec.toNat_ofNat]
  · rw [← hnext, BitVec.ofNat_toNat, BitVec.setWidth_eq]

/-- Where both bytes of the pointer lie in storage, the target of IND is the word they hold (30_encoding.md R92). -/
theorem State.jmpIndirect_of_peek {s : State} {ptr : Addr} {lo hi : Byte} (hlo : s.peek ptr = some lo)
    (hhi : s.peek (jmpPointerHigh s.cfg ptr) = some hi) : s.jmpIndirect ptr = wordOf hi lo := by
  rw [State.jmpIndirect, State.busRead_of_peek hlo,
    State.busRead_of_peek ((s.peek_afterRead _ _).trans hhi)]

/-- The pointer reads of IND leave memory as it is. -/
theorem State.peek_afterJmpIndirect (s : State) (ptr a : Addr) : (s.afterJmpIndirect ptr).peek a = s.peek a := by
  rw [State.afterJmpIndirect, State.peek_afterRead, State.peek_afterRead]

/-- Settles O47: a jump writes `PC` alone, and the pointer's bytes are those R92 names. -/
theorem jumpGoesToItsTarget : Obligations.JumpGoesToItsTarget := by
  refine ⟨encodedBy_of_check (by decide +kernel), fun s addr => ?_, fun s ptr => ?_,
    fun s t ptr lo hi hexec hlo hhi => ?_⟩
  · exact ⟨_, ⟨rfl, rfl⟩, rfl, ((Frame.refl [] [] s).setPC addr).setCyc 3, fun _ => rfl⟩
  · exact ⟨_, ⟨rfl, rfl⟩, ((((Frame.refl [] [] s).afterRead _).afterRead _).setPC _).setCyc 5,
      s.peek_afterJmpIndirect ptr, rfl⟩
  · cases hexec
    rw [← jmpPointerHigh_eq] at hhi
    have hpc : s.jmpIndirect ptr = wordOf hi lo := State.jmpIndirect_of_peek hlo hhi
    exact (congrArg BitVec.toNat hpc).trans (toNat_wordOf hi lo)

/-! ### JSR -/

/-- The two bytes a 16-bit push leaves, at their addresses (20_memory.md R60). -/
theorem State.peek_push16 {s : State} (hm : s.mem.wf = true) (w : Addr) :
    (s.push16 w).peek (stackAddr s.sp) = some (hiByte w) ∧
      (s.push16 w).peek (stackAddr (s.sp - 1)) = some (loByte w) := by
  obtain ⟨hhi, hlo⟩ := State.read_push16 hm w
  exact ⟨by rw [State.peek_stackAddr, hhi], by rw [State.peek_stackAddr, hlo]⟩

theorem hiByte_mul_add_loByte (w : Addr) : (hiByte w).toNat * 256 + (loByte w).toNat = w.toNat := by
  rw [← toNat_wordOf, wordOf_bytes]

/-- Settles O48: what JSR stores is one 16-bit push of the address of its last byte. -/
theorem jsrPushesItsLastByteAddress : Obligations.JsrPushesItsLastByteAddress := by
  refine ⟨encodedBy_of_check (by decide +kernel), fun s addr hm => ?_⟩
  obtain ⟨hhi, hlo⟩ := State.peek_push16 hm (s.pc + 2)
  have hret := (hiByte_mul_add_loByte (s.pc + 2)).trans (toNat_add_two s.pc)
  refine ⟨_, ⟨rfl, rfl⟩, ⟨_, _, hhi, hlo, hret⟩, (sub_two s.sp).symm, rfl, ?_, fun a ha => ?_⟩
  · exact ((((Frame.refl [.sp] [] s).push (by simp) _).push (by simp) _).setPC addr).setCyc 6
  · exact State.peek_push16_other (s.pc + 2) (ha _ (by simp)) (ha _ (by simp))

/-! ### RTS and RTI -/

theorem add_two_byte (sp : Byte) : sp + 2 = sp + 1 + 1 := by bv_omega

theorem add_three_byte (sp : Byte) : sp + 3 = sp + 1 + 1 + 1 := by bv_omega

/-- Settles O49: the word pulled is that of the two bytes above the stack pointer. -/
theorem rtsReturnsPastTheCall : Obligations.RtsReturnsPastTheCall := by
  refine ⟨encodedBy_of_check (by decide +kernel), fun s => ?_⟩
  rw [add_two_byte]
  refine ⟨_, _, _, ⟨rfl, rfl⟩, s.peek_stackAddr _, s.peek_stackAddr _, ?_, rfl,
    (((Frame.refl [.sp] [] s).setSP (by simp) _).setPC _).setCyc 6, fun _ => rfl⟩
  have hpc : (rtsEffect s).pc = s.pull16.1 + 1 := rfl
  rw [State.setCyc_pc, hpc, State.pull16_fst, ← toNat_wordOf]
  exact toNat_add_ofNat _ 1

/-- Settles O50: the return from an interrupt is the write of `P`, `SP` and `PC` that the three bytes above the stack
pointer give. -/
theorem rtiRestoresStatusAndAddress : Obligations.RtiRestoresStatusAndAddress := by
  refine ⟨encodedBy_of_check (by decide +kernel), fun s => ?_⟩
  rw [add_two_byte, add_three_byte]
  have hexec : exec .rti s = .next (s.returnFromInterrupt.setCyc 6) := rfl
  rw [State.returnFromInterrupt_eq] at hexec
  refine ⟨_, _, _, _, ⟨hexec, rfl⟩, s.peek_stackAddr _, s.peek_stackAddr _, s.peek_stackAddr _, rfl, toNat_wordOf _ _,
    rfl, fun r hr => ?_, ⟨rfl, rfl, rfl, rfl⟩, fun _ => rfl⟩
  cases r with
  | sp => exact absurd (List.mem_singleton_self _) hr
  | a | x | y => rfl

end Sys2Proof.Machine
end

section
/-! SUPPORT and PROOFS. The stack family (48_stack.md): the state the two pushes answer, and what the two pulls do with the
byte above the stack pointer. -/

namespace Sys2Proof.Machine

open Sys2Proof.Safety

/-! ### PHA and PHP -/

/-- What an `implied` instruction that pushes `v` answers. -/
theorem exec_implied_push {i : Instr} {v : Byte} {s : State} (hm : Memory.wf s.mem = true)
    (hexec : exec i s = .next (((s.advance 1).push v).setCyc 3)) (hcyc : cyclesOf i s = 3) :
    ∃ t, Completes i s t ∧ t.peek (stackAddr s.sp) = some v ∧ t.sp = s.sp - 1 ∧ t.p = s.p ∧ Frame [.sp] [] s t ∧
      SameMemoryBut [stackAddr s.sp] s t ∧ t.pc = s.pc + 1 := by
  refine ⟨_, ⟨hexec, hcyc.symm⟩, State.peek_push_same (s := s.advance 1) hm v, rfl, State.push_p _ _,
    (((Frame.refl [.sp] [] s).advance 1).push (by simp) v).setCyc 3, fun a ha => ?_, State.push_pc _ _⟩
  exact State.peek_push_other (s := s.advance 1) v (ha _ (List.mem_singleton_self _))

/-- Settles O52: each of the two is one push, of the byte listed with it. -/
theorem pushInstructions : Obligations.PushInstructions := by
  refine ⟨encodedBy_of_check (by decide +kernel), encodedBy_of_check (by decide +kernel), fun s hm p hp => ?_⟩
  simp only [List.mem_cons, List.not_mem_nil, or_false] at hp
  rcases hp with rfl | rfl
  · exact exec_implied_push hm rfl rfl
  · exact exec_implied_push hm rfl rfl

/-! ### PLA and PLP -/

/-- PLA writes the pulled byte to A, with N and Z from it, and steps `SP` up (48_stack.md R147). -/
theorem exec_pla (s : State) :
    ∃ t, Completes .pla s t ∧ t.a = s.pull.1 ∧ FollowsNZ s.pull.1 t ∧ t.sp = s.sp + 1 ∧ Frame [.a, .sp] [.n, .z] s t ∧
      SameMemory s t ∧ t.pc = s.pc + 1 := by
  have hframe := ((Frame.refl [.a, .sp] [.n, .z] s).advance 1).setSP (by simp) (s.sp + 1)
  exact ⟨_, ⟨rfl, rfl⟩, rfl, followsNZ_of_setNZ rfl, rfl,
    ((hframe.setReg (r := .a) (by simp) _).setNZ (by simp) (by simp) _).setCyc 4, fun _ => rfl, rfl⟩

/-- PLP writes the pulled byte to the whole of `P`, U forced to 1, and steps `SP` up (48_stack.md R148). -/
theorem exec_plp (s : State) :
    ∃ t, Completes .plp s t ∧ t.p = s.pull.1 ||| 0x20 ∧ t.sp = s.sp + 1 ∧ SameRegsBut [.sp] s t ∧ SameControl s t ∧
      SameMemory s t ∧ t.pc = s.pc + 1 := by
  have hframe := (Frame.refl [.sp] [] s).setSP (by simp) (s.sp + 1)
  exact ⟨_, ⟨rfl, rfl⟩, rfl, rfl, hframe.regs, ⟨rfl, rfl, rfl, rfl⟩, fun _ => rfl, rfl⟩

/-- Settles O53: the byte both pull is the one `State.pull` gives. -/
theorem pullInstructions : Obligations.PullInstructions := by
  refine ⟨encodedBy_of_check (by decide +kernel), encodedBy_of_check (by decide +kernel), fun s => ?_⟩
  exact ⟨s.pull.1, s.peek_pulled, exec_pla s, exec_plp s⟩

end Sys2Proof.Machine
end

section
/-! SUPPORT and PROOFS. The encoding family (30_encoding.md): decoding and encoding undo each other. -/

namespace Sys2Proof

/-! ### Decoding what was encoded -/

/-- An instruction decodes from its own bytes, whatever follows them. -/
theorem decode_encode (i : Instr) (rest : List Byte) : decode (encode i ++ rest) = .ok (i, rest) := by
  obtain ⟨e, hrow, hmn, hmode⟩ := decodeOpcode_opcode i
  have htake : takeOperand e.mode (i.operand.bytes ++ rest) = some (i.operand, rest) :=
    hmode ▸ takeOperand_bytes i.operand rest
  have hassemble : assemble e.mnemonic i.operand = some i := hmn ▸ (Laws.Assembles.all i).2
  simp only [encode, List.cons_append, decode, hrow, htake, hassemble]

/-- Settles O1: the opcode byte finds the instruction's row, and its mode takes the operand's own bytes. -/
theorem decodeGivesBackEveryEncodedInstruction : Obligations.DecodeGivesBackEveryEncodedInstruction :=
  fun i rest => ⟨(Laws.Assembles.all i).1, decode_encode i rest⟩

theorem decode_of_encode_append {i : Instr} {rest bytes : List Byte} (h : encode i ++ rest = bytes) :
    decode bytes = .ok (i, rest) := h ▸ decode_encode i rest

/-- Settles O4: each word is the encoding of what it stands for, and $02 has no row. -/
theorem specWordsDecode : Obligations.SpecWordsDecode :=
  ⟨decode_of_encode_append (by decide +kernel), decode_of_encode_append (by decide +kernel),
    decode_of_encode_append (by decide +kernel), decode_of_encode_append (by decide +kernel),
    decode_of_encode_append (by decide +kernel), decode_of_encode_append (by decide +kernel),
    decode_of_encode_append (by decide +kernel), rfl⟩

/-! ### Encoding what was decoded -/

/-- No two rows have the same mnemonic and mode (30_encoding.md R76). -/
theorem entryOf_of_mem {e : OpcodeEntry} (h : e ∈ opcodeTable) : entryOf e.mnemonic e.mode = some e := by
  have hall : opcodeTable.all (fun e => entryOf e.mnemonic e.mode == some e) = true := by decide +kernel
  simpa using List.all_eq_true.mp hall e h

/-- An opcode byte that decodes to an instruction's row is that instruction's opcode. -/
theorem opcode_of_decodeOpcode {i : Instr} {op : Byte} {e : OpcodeEntry} (h : decodeOpcode op = some e)
    (hmn : i.mnemonic = e.mnemonic) (hmode : i.mode = e.mode) : i.opcode = op := by
  obtain ⟨hmem, rfl⟩ := decodeOpcode_spec h
  simp only [Instr.opcode, hmn, hmode, entryOf_of_mem hmem]

/-- An operand taken from the front of a list has the bytes it was taken from (30_encoding.md R72). -/
theorem bytes_of_takeOperand {md : Mode} {bytes rest : List Byte} {o : Operand}
    (h : takeOperand md bytes = some (o, rest)) : bytes = o.bytes ++ rest := by
  unfold takeOperand at h
  split at h
  case h_4 => cases h
  all_goals
    rename_i hlen
    cases h
    cases md <;> cases hlen <;> simp [Mode.operand, Operand.bytes]

/-- Settles O2: the opcode byte names the instruction's one row, and the operand keeps the bytes it was taken from. -/
theorem decodedBytesAreTheInstructionsOwn : Obligations.DecodedBytesAreTheInstructionsOwn := by
  intro bytes rest i h
  obtain ⟨op, tail, e, rfl, hrow, htake, hmn, hmode⟩ := decode_ok h
  rw [encode, opcode_of_decodeOpcode hrow hmn hmode, bytes_of_takeOperand htake, List.cons_append]

end Sys2Proof
end

section
/-! SUPPORT. What an instruction may change, said once: which registers, flags and memory each mnemonic writes, and that
`exec` answers a state within them. -/

namespace Sys2Proof.Safety

open Sys2Proof.Machine

/-- What an update may change: the registers `rs`, the flags `fs`, memory where `w` is true, and beside them `PC`, `CYC`
and the count of draws. What it writes keeps the invariant. -/
structure Within (rs : List Reg) (fs : List Flag) (w : Bool) (s t : State) : Prop where
  frame : Frame rs fs s t
  mem : w = false → t.mem = s.mem
  canonical : Memory.wf s.mem = true → Memory.wf t.mem = true
  bitFive : s.p[5] = true → t.p[5] = true

section

variable {rs : List Reg} {fs : List Flag} {w : Bool} {s t : State}

theorem Within.refl (rs : List Reg) (fs : List Flag) (w : Bool) (s : State) : Within rs fs w s s :=
  ⟨.refl rs fs s, fun _ => rfl, id, id⟩

/-- An update that leaves memory and bit 5 of `P` as they are is within what its frame allows. -/
theorem Within.update (h : Within rs fs w s t) {u : State} (hframe : Frame rs fs s u) (hmem : u.mem = t.mem)
    (hbit : u.p[5] = t.p[5]) : Within rs fs w s u :=
  ⟨hframe, fun hw => hmem.trans (h.mem hw), fun hm => hmem ▸ h.canonical hm, fun hb => hbit.trans (h.bitFive hb)⟩

theorem Within.setCyc (h : Within rs fs w s t) (c : Nat) : Within rs fs w s (t.setCyc c) :=
  h.update (h.frame.setCyc c) rfl rfl

theorem Within.setDraws (h : Within rs fs w s t) (d : Nat) : Within rs fs w s (t.setDraws d) :=
  h.update (h.frame.setDraws d) rfl rfl

theorem Within.afterRead (h : Within rs fs w s t) (a : Addr) : Within rs fs w s (t.afterRead a) := by
  obtain ⟨d, hd⟩ := t.afterRead_eq a
  exact hd ▸ h.setDraws d

theorem Within.advance (h : Within rs fs w s t) (n : Nat) : Within rs fs w s (t.advance n) :=
  h.update (h.frame.advance n) rfl rfl

theorem Within.setPC (h : Within rs fs w s t) (a : Addr) : Within rs fs w s (t.setPC a) :=
  h.update (h.frame.setPC a) rfl rfl

theorem Within.setReg (h : Within rs fs w s t) {r : Reg} (hr : r ∈ rs) (v : Byte) : Within rs fs w s (t.setReg r v) :=
  h.update (h.frame.setReg hr v) (by cases r <;> rfl) (by rw [State.setReg_p])

theorem Within.setFlag (h : Within rs fs w s t) {f : Flag} (hf : f ∈ fs) (b : Bool) :
    Within rs fs w s (t.setFlag f b) :=
  h.update (h.frame.setFlag hf b) rfl (bit_five_setFlag t.p f b)

theorem Within.setNZ (h : Within rs fs w s t) (hn : .n ∈ fs) (hz : .z ∈ fs) (r : Byte) :
    Within rs fs w s (t.setNZ r) :=
  h.update (h.frame.setNZ hn hz r) rfl (bit_five_setNZ t.p r)

/-- A write of the whole of `P` may change every flag but U, which reads as 1 (10_state.md R26). -/
theorem Within.writeP (h : Within rs fs w s t) (hfs : ∀ f ∈ [Flag.n, .v, .b, .d, .i, .z, .c], f ∈ fs) (v : Byte) :
    Within rs fs w s (t.writeP v) where
  frame := by
    refine h.frame.trans ⟨fun r _ => by cases r <;> rfl, fun f hf => ?_, rfl, rfl, rfl, rfl⟩
    cases f with
    | u => simp [State.flag]
    | _ => exact absurd (hfs _ (by decide)) hf
  mem := h.mem
  canonical := h.canonical
  bitFive _ := bit_five_writeStatus v

theorem Within.busWrite (h : Within rs fs w s t) (hw : w = true) (a : Addr) (v : Byte) :
    Within rs fs w s (t.busWrite a v) where
  frame := h.frame.busWrite a v
  mem hno := by cases hw.symm.trans hno
  canonical hm := State.busWrite_wf (h.canonical hm) a v
  bitFive hb := by simpa using h.bitFive hb

theorem Within.push (h : Within rs fs w s t) (hsp : .sp ∈ rs) (hw : w = true) (v : Byte) :
    Within rs fs w s (t.push v) := (h.busWrite hw _ v).setReg (r := .sp) hsp _

theorem Within.push16 (h : Within rs fs w s t) (hsp : .sp ∈ rs) (hw : w = true) (a : Addr) :
    Within rs fs w s (t.push16 a) := (h.push hsp hw (hiByte a)).push hsp hw (loByte a)

theorem Within.enterInterrupt (h : Within rs fs w s t) (hsp : .sp ∈ rs) (hw : w = true) (hb : .b ∈ fs) {i : Bool}
    (hi : i = true → .i ∈ fs) (ret vector : Addr) : Within rs fs w s (t.enterInterrupt ret vector i) := by
  have hentered := (((h.push16 hsp hw ret).push hsp hw t.readP).setPC
    (((t.push16 ret).push t.readP).read16 vector)).setFlag hb true
  cases i with
  | true => exact hentered.setFlag (hi rfl) true
  | false => exact hentered

/-- A result written to a register, with N and Z after it. -/
theorem Within.load (h : Within rs fs w s t) {r : Reg} (hr : r ∈ rs) (hn : .n ∈ fs) (hz : .z ∈ fs) (v : Byte) :
    Within rs fs w s (loadEffect r v t) := (h.setReg hr v).setNZ hn hz v

end

/-- The mnemonics that may change a register (10_state.md R20 to R23), beside the shifts, which write A in ACC. -/
def registerWriters : Reg → List Mnemonic
  | .a => [.lda, .pla, .txa, .tya, .adc, .sbc, .and, .ora, .eor]
  | .x => [.ldx, .tax, .tsx, .inx, .dex]
  | .y => [.ldy, .tay, .iny, .dey]
  | .sp => [.pha, .php, .pla, .plp, .jsr, .rts, .rti, .brk, .txs]

/-- The mnemonics whose result follows their operand: the accumulator in ACC, else memory (43_shift_rotate.md). -/
def shiftMnemonics : List Mnemonic := [.asl, .lsr, .rol, .ror]

/-- The mnemonics that set N and Z from a result, or write the whole of `P` (10_state.md R28, R33). -/
def resultWriters : List Mnemonic :=
  [.lda, .ldx, .ldy, .tax, .tay, .txa, .tya, .tsx, .pla, .and, .ora, .eor, .adc, .sbc, .asl, .lsr, .rol, .ror, .inc,
   .dec, .inx, .iny, .dex, .dey, .cmp, .cpx, .cpy, .bit, .plp, .rti]

/-- The mnemonics that may change a flag (10_state.md R27 to R33); none changes U, which reads as 1. -/
def flagWriters : Flag → List Mnemonic
  | .c => [.adc, .sbc, .asl, .lsr, .rol, .ror, .cmp, .cpx, .cpy, .clc, .sec, .plp, .rti]
  | .z => resultWriters
  | .n => resultWriters
  | .i => [.sei, .cli, .brk, .plp, .rti]
  | .d => [.sed, .cld, .plp, .rti]
  | .b => [.brk, .plp, .rti]
  | .v => [.adc, .sbc, .bit, .clv, .plp, .rti]
  | .u => []

/-- The mnemonics that may change memory (20_memory.md R64), beside the shifts. -/
def memoryWriters : List Mnemonic := [.sta, .stx, .sty, .inc, .dec, .pha, .php, .jsr, .brk]

/-- The registers an instruction may change. -/
def writtenRegs (m : Mnemonic) (md : Mode) : List Reg :=
  [Reg.a, .x, .y, .sp].filter fun r => m ∈ registerWriters r ∨ r = .a ∧ m ∈ shiftMnemonics ∧ md = .acc

/-- The flags an instruction may change. -/
def writtenFlags (m : Mnemonic) : List Flag := [Flag.n, .v, .b, .d, .i, .z, .c].filter fun f => m ∈ flagWriters f

/-- Whether an instruction may change memory. -/
def writesMemory (m : Mnemonic) (md : Mode) : Bool := m ∈ memoryWriters ∨ m ∈ shiftMnemonics ∧ md ≠ .acc

/-- What an instruction of a mnemonic in a mode may change. -/
abbrev Writes (m : Mnemonic) (md : Mode) (s t : State) : Prop :=
  Within (writtenRegs m md) (writtenFlags m) (writesMemory m md) s t

theorem mem_writtenRegs {m : Mnemonic} {r : Reg} (h : m ∈ registerWriters r) (md : Mode) : r ∈ writtenRegs m md := by
  cases r <;> simp [writtenRegs, h]

theorem writesMemory_of_mem {m : Mnemonic} (h : m ∈ memoryWriters) (md : Mode) : writesMemory m md = true := by
  simp [writesMemory, h]

end Sys2Proof.Safety

namespace Sys2Proof.Machine

open Sys2Proof.Safety

/-! ### The effects, class by class -/

/-- The effect of an `implied` instruction that goes on to the next one. -/
def impliedEffect : Mnemonic → Option (State → State)
  | .clc => some (·.setFlag .c false)
  | .sec => some (·.setFlag .c true)
  | .cli => some (·.setFlag .i false)
  | .sei => some (·.setFlag .i true)
  | .cld => some (·.setFlag .d false)
  | .sed => some (·.setFlag .d true)
  | .clv => some (·.setFlag .v false)
  | .tax => some taxEffect
  | .tay => some tayEffect
  | .txa => some txaEffect
  | .tya => some tyaEffect
  | .tsx => some tsxEffect
  | .txs => some txsEffect
  | .inx => some inxEffect
  | .iny => some inyEffect
  | .dex => some dexEffect
  | .dey => some deyEffect
  | .pha => some phaEffect
  | .php => some phpEffect
  | .pla => some plaEffect
  | .plp => some plpEffect
  | .nop => some id
  | _ => none

/-- An `implied` instruction answers its effect on the state past it. -/
theorem exec_implied {i : Instr} {op : State → State} (h : impliedEffect i.mnemonic = some op) (s : State) :
    ∃ c, exec i s = .next ((op (s.advance i.mode.length)).setCyc c) := by
  cases i <;> cases h <;> exact ⟨_, rfl⟩

section

variable {m : Mnemonic} {md : Mode} {s t : State}

/-- A `read` instruction's effect writes what its mnemonic may. -/
theorem readEffect_writes {op : Byte → State → State} (hop : readEffect m = some op) (h : Writes m md s t) (v : Byte) :
    Writes m md s (op v t) := by
  cases m <;> cases hop
  case lda | and | ora | eor =>
    exact h.load (r := .a) (mem_writtenRegs (by decide) md) (by decide) (by decide) _
  case ldx => exact h.load (r := .x) (mem_writtenRegs (by decide) md) (by decide) (by decide) v
  case ldy => exact h.load (r := .y) (mem_writtenRegs (by decide) md) (by decide) (by decide) v
  case adc | sbc =>
    exact (((h.setReg (r := .a) (mem_writtenRegs (by decide) md) _).setFlag (f := .c) (by decide) _).setFlag (f := .v)
      (by decide) _).setNZ (by decide) (by decide) _
  case bit =>
    exact ((h.setFlag (f := .z) (by decide) _).setFlag (f := .n) (by decide) _).setFlag (f := .v) (by decide) _
  case cmp | cpx | cpy =>
    exact ((h.setFlag (f := .c) (by decide) _).setFlag (f := .z) (by decide) _).setFlag (f := .n) (by decide) _

/-- The flags of a `rmw` instruction are those its mnemonic may write. -/
theorem rmwEffect_writes {op : Byte → State → Byte × State} (hop : rmwEffect m = some op) (h : Writes m md s t)
    (v : Byte) : Writes m md s (op v t).2 := by
  cases m <;> cases hop
  case asl | lsr | rol | ror => exact (h.setFlag (f := .c) (by decide) _).setNZ (by decide) (by decide) _
  case inc | dec => exact h.setNZ (by decide) (by decide) _

/-- A `write` instruction may write memory. -/
theorem writesMemory_of_store {src : State → Byte} (hsrc : storedRegister m = some src) : writesMemory m md = true := by
  cases m <;> cases hsrc <;> exact writesMemory_of_mem (by decide) md

/-- A `rmw` instruction may write memory in every mode but ACC. -/
theorem writesMemory_of_rmw {op : Byte → State → Byte × State} (hop : rmwEffect m = some op) (hmd : md ≠ .acc) :
    writesMemory m md = true := by
  cases m <;> cases hop
  case asl | lsr | rol | ror => simp [writesMemory, shiftMnemonics, hmd]
  case inc | dec => exact writesMemory_of_mem (by decide) md

/-- A `rmw` instruction in ACC may write the accumulator. -/
theorem a_mem_writtenRegs_of_rmw {op : Byte → State → Byte × State} (hop : rmwEffect m = some op)
    (hmd : md ∈ m.modes) (hacc : md = .acc) : .a ∈ writtenRegs m md := by
  subst hacc
  cases m <;> cases hop
  case asl | lsr | rol | ror => decide
  case inc | dec => exact absurd hmd (by decide)

/-- An `implied` instruction's effect writes what its mnemonic may. -/
theorem impliedEffect_writes {op : State → State} (hop : impliedEffect m = some op) (h : Writes m md s t) :
    Writes m md s (op t) := by
  cases m <;> cases hop
  case clc | sec => exact h.setFlag (by decide) _
  case cli | sei => exact h.setFlag (by decide) _
  case cld | sed => exact h.setFlag (by decide) _
  case clv => exact h.setFlag (by decide) _
  case tax | tsx | inx | dex => exact h.load (r := .x) (mem_writtenRegs (by decide) md) (by decide) (by decide) _
  case tay | iny | dey => exact h.load (r := .y) (mem_writtenRegs (by decide) md) (by decide) (by decide) _
  case txa | tya => exact h.load (r := .a) (mem_writtenRegs (by decide) md) (by decide) (by decide) _
  case txs => exact h.setReg (r := .sp) (mem_writtenRegs (by decide) md) _
  case pha | php => exact h.push (mem_writtenRegs (by decide) md) (writesMemory_of_mem (by decide) md) _
  case pla =>
    exact (h.setReg (r := .sp) (mem_writtenRegs (by decide) md) _).load (r := .a) (mem_writtenRegs (by decide) md)
      (by decide) (by decide) _
  case plp => exact (h.setReg (r := .sp) (mem_writtenRegs (by decide) md) _).writeP (by decide) _
  case nop => exact h

end

/-- The mnemonics that go on elsewhere than at the next instruction or at a branch's target. -/
def redirecting : List Mnemonic := [.jmp, .jsr, .rts, .rti, .brk]

/-- An instruction that redirects control answers a state within what its mnemonic may write. -/
theorem exec_redirect {i : Instr} (h : i.mnemonic ∈ redirecting) (s : State) :
    ∃ t, exec i s = .next t ∧ Writes i.mnemonic i.mode s t := by
  have hs : Writes i.mnemonic i.mode s s := .refl _ _ _ s
  cases i with
  | jmpAbs addr => exact ⟨_, rfl, (hs.setPC addr).setCyc 3⟩
  | jmpInd ptr => exact ⟨_, rfl, (((hs.afterRead _).afterRead _).setPC _).setCyc 5⟩
  | jsr addr => exact ⟨_, rfl, ((hs.push16 (mem_writtenRegs (m := .jsr) (by decide) _) rfl _).setPC addr).setCyc 6⟩
  | rts => exact ⟨_, rfl, ((hs.setReg (r := .sp) (by decide) _).setPC _).setCyc 6⟩
  | rti =>
    have hpulled := (hs.writeP (by decide) (s.mem.read (256 + (s.sp + 1).toNat))).setReg (r := .sp) (by decide)
      (s.sp + 1 + 1 + 1)
    exact ⟨_, rfl, (State.returnFromInterrupt_eq s ▸ hpulled.setPC _).setCyc 6⟩
  | brk =>
    have hbroken := hs.setFlag (f := .b) (by decide) true
    exact ⟨_, rfl, (hbroken.enterInterrupt (by decide) rfl (by decide) (fun _ => by decide) _ _).setCyc 7⟩
  | _ => simp [redirecting, Instr.mnemonic] at h

/-! ### Every instruction -/

/-- The classes of instructions, by what their mnemonic does (30_encoding.md R96). -/
inductive InstrKind (i : Instr) : Prop
  | read {op : Byte → State → State} (h : readEffect i.mnemonic = some op)
  | write {src : State → Byte} (h : storedRegister i.mnemonic = some src)
  | rmw {op : Byte → State → Byte × State} (h : rmwEffect i.mnemonic = some op)
  | implied {op : State → State} (h : impliedEffect i.mnemonic = some op)
  | branch {d : Byte} (h : i.operand = .rel d)
  | redirect (h : i.mnemonic ∈ redirecting)

theorem operand_of_mode_rel {i : Instr} (h : i.mode = .rel) : ∃ d, i.operand = .rel d := by
  unfold Instr.mode at h
  cases ho : i.operand with
  | rel d => exact ⟨d, rfl⟩
  | mem m => cases m <;> simp [ho, Operand.mode, MemOperand.mode] at h
  | _ => simp [ho, Operand.mode] at h

/-- Every instruction belongs to a class. -/
theorem instrKind (i : Instr) : InstrKind i := by
  have hmode := mode_mem_modes i
  cases hm : i.mnemonic <;> rw [hm] at hmode
  case lda | ldx | ldy | adc | sbc | and | ora | eor | bit | cmp | cpx | cpy => exact .read (by rw [hm]; rfl)
  case sta | stx | sty => exact .write (by rw [hm]; rfl)
  case asl | lsr | rol | ror | inc | dec => exact .rmw (by rw [hm]; rfl)
  case jmp | jsr | rts | rti | brk => exact .redirect (by rw [hm]; decide)
  case bcc | bcs | beq | bmi | bne | bpl | bvc | bvs =>
    obtain ⟨d, hd⟩ := operand_of_mode_rel (List.mem_singleton.mp hmode)
    exact .branch hd
  all_goals exact .implied (by rw [hm]; rfl)

/-- Every instruction answers a next state, within what its mnemonic may write in its mode. -/
theorem exec_writes (i : Instr) (s : State) : ∃ t, exec i s = .next t ∧ Writes i.mnemonic i.mode s t := by
  have hs : Writes i.mnemonic i.mode s s := .refl _ _ _ s
  cases instrKind i with
  | read h =>
    obtain ⟨d, c, hexec⟩ := exec_read h s
    exact ⟨_, hexec, (readEffect_writes h ((hs.setDraws d).advance _) _).setCyc c⟩
  | write h =>
    obtain ⟨c, hexec⟩ := exec_store h s
    exact ⟨_, hexec, ((hs.advance _).busWrite (writesMemory_of_store h) _ _).setCyc c⟩
  | rmw h =>
    by_cases hmode : i.mode = .acc
    · obtain ⟨c, hexec⟩ := exec_rmw_acc h hmode s
      have ha : .a ∈ writtenRegs i.mnemonic i.mode := a_mem_writtenRegs_of_rmw h (mode_mem_modes i) hmode
      exact ⟨_, hexec, ((rmwEffect_writes h (hs.advance _) _).setReg ha _).setCyc c⟩
    · obtain ⟨d, c, hexec⟩ := exec_rmw h hmode s
      have heffect := rmwEffect_writes h ((hs.setDraws d).advance i.mode.length) (operandByte s i.operand)
      exact ⟨_, hexec, (heffect.busWrite (writesMemory_of_rmw h hmode) _ _).setCyc c⟩
  | implied h =>
    obtain ⟨c, hexec⟩ := exec_implied h s
    exact ⟨_, hexec, (impliedEffect_writes h (hs.advance _)).setCyc c⟩
  | branch h => exact ⟨_, exec_branch_eq h s, (hs.setPC _).setCyc _⟩
  | redirect h => exact exec_redirect h s

end Sys2Proof.Machine
end

section
/-! PROOFS. What every instruction does (10_state.md sections 2 to 4, 30_encoding.md section 3, 70_reset_and_hazards.md
R197): completion, the writer lists, `PC` and `CYC`. -/

namespace Sys2Proof.Machine

open Sys2Proof.Safety

/-! ### Completion and the writer lists -/

/-- Settles O9: every instruction answers a next state within what it may write, and that leaves the control state. -/
theorem everyInstructionCompletes : Obligations.EveryInstructionCompletes := by
  intro i s
  obtain ⟨t, hexec, hwrites⟩ := exec_writes i s
  exact ⟨t, hexec, hwrites.frame.control⟩

/-- What an instruction answers is within what it may write. -/
theorem writes_of_exec {i : Instr} {s t : State} (h : exec i s = .next t) : Writes i.mnemonic i.mode s t := by
  obtain ⟨u, hexec, hwrites⟩ := exec_writes i s
  cases hexec.symm.trans h
  exact hwrites

/-- A flag that changed has the instruction among its writers. -/
theorem mem_flagWriters_of_ne {m : Mnemonic} {md : Mode} {s t : State} (h : Writes m md s t) {f : Flag}
    (hne : t.flag f ≠ s.flag f) : m ∈ flagWriters f := by
  have hf : f ∈ writtenFlags m := Decidable.byContradiction fun hno => hne (h.frame.flags f hno)
  simpa using (List.mem_filter.mp hf).2

/-- Settles O14: a flag changes only where `Writes` lists it, and U reads as 1. -/
theorem onlyTheListedInstructionsChangeAFlag : Obligations.OnlyTheListedInstructionsChangeAFlag := by
  intro i s t hexec
  have h := writes_of_exec hexec
  exact ⟨mem_flagWriters_of_ne h, mem_flagWriters_of_ne h, mem_flagWriters_of_ne h, mem_flagWriters_of_ne h,
    mem_flagWriters_of_ne h, mem_flagWriters_of_ne h, mem_flagWriters_of_ne h, getFlag_u t.p⟩

/-- A register that changed has the instruction among its writers. -/
theorem mem_registerWriters_of_ne {m : Mnemonic} {md : Mode} {s t : State} (h : Writes m md s t) {r : Reg}
    (hne : regOf t r ≠ regOf s r) : m ∈ registerWriters r ∨ r = .a ∧ m ∈ shiftMnemonics ∧ md = .acc := by
  have hr : r ∈ writtenRegs m md := Decidable.byContradiction fun hno => hne (h.frame.regs r hno)
  simpa using (List.mem_filter.mp hr).2

/-- Memory that changed has the instruction among its writers. -/
theorem mem_memoryWriters_of_ne {m : Mnemonic} {md : Mode} {s t : State} (h : Writes m md s t) (hne : t.mem ≠ s.mem) :
    m ∈ memoryWriters ∨ m ∈ shiftMnemonics ∧ md ≠ .acc := by
  have hw : writesMemory m md = true := Bool.not_eq_false _ ▸ fun hno => hne (h.mem hno)
  exact of_decide_eq_true hw

/-- Settles O15: a register or memory changes only where `Writes` lists it. -/
theorem onlyTheListedInstructionsChangeARegister : Obligations.OnlyTheListedInstructionsChangeARegister := by
  intro i s t hexec
  have h := writes_of_exec hexec
  have hreg (r : Reg) (ha : r ≠ .a) (hne : regOf t r ≠ regOf s r) : i.mnemonic ∈ registerWriters r :=
    (mem_registerWriters_of_ne h hne).resolve_right fun hshift => ha hshift.1
  exact ⟨fun hne => (mem_registerWriters_of_ne h (r := .a) hne).imp_right And.right, hreg .x (by decide),
    hreg .y (by decide), hreg .sp (by decide), mem_memoryWriters_of_ne h⟩

/-! ### The program counter -/

section

variable {m : Mnemonic}

theorem readEffect_pc {op : Byte → State → State} (hop : readEffect m = some op) (v : Byte) (s : State) :
    (op v s).pc = s.pc := by
  cases m <;> cases hop <;> rfl

theorem rmwEffect_pc {op : Byte → State → Byte × State} (hop : rmwEffect m = some op) (v : Byte) (s : State) :
    (op v s).2.pc = s.pc := by
  cases m <;> cases hop <;> rfl

theorem impliedEffect_pc {op : State → State} (hop : impliedEffect m = some op) (s : State) : (op s).pc = s.pc := by
  cases m <;> cases hop
  case pha | php => exact State.push_pc _ _
  all_goals rfl

end

/-- An instruction that is no branch and does not redirect control goes on at the next one (30_encoding.md R81). -/
theorem exec_pc {i : Instr} {s t : State} (hexec : exec i s = .next t) (hno : i.mnemonic ∉ redirecting)
    (hbranch : i.mode ≠ .rel) : t.pc = nextPC i s := by
  cases instrKind i with
  | read h =>
    obtain ⟨d, c, hnext⟩ := exec_read h s
    cases hexec.symm.trans hnext
    exact readEffect_pc h _ _
  | write h =>
    obtain ⟨c, hnext⟩ := exec_store h s
    cases hexec.symm.trans hnext
    exact State.busWrite_pc _ _ _
  | rmw h =>
    by_cases hmode : i.mode = .acc
    · obtain ⟨c, hnext⟩ := exec_rmw_acc h hmode s
      cases hexec.symm.trans hnext
      exact rmwEffect_pc h _ _
    · obtain ⟨d, c, hnext⟩ := exec_rmw h hmode s
      cases hexec.symm.trans hnext
      exact (State.busWrite_pc _ _ _).trans (rmwEffect_pc h _ _)
  | implied h =>
    obtain ⟨c, hnext⟩ := exec_implied h s
    cases hexec.symm.trans hnext
    exact impliedEffect_pc h _
  | branch h => exact absurd (by rw [Instr.mode, h]; rfl) hbranch
  | redirect h => exact absurd h hno

/-- Only an instruction in REL has a branch condition. -/
theorem branchTaken_eq_false {i : Instr} (hbranch : i.mode ≠ .rel) (s : State) : branchTaken i.mnemonic s = false := by
  have hmode := mode_mem_modes i
  cases hm : i.mnemonic <;> rw [hm] at hmode
  case bcc | bcs | beq | bmi | bne | bpl | bvc | bvs => exact absurd (List.mem_singleton.mp hmode) hbranch
  all_goals rfl

/-- Settles O13: a branch goes where its condition says, and every other instruction listed goes on at the next one. -/
theorem programCounterAdvancesByTheLength : Obligations.ProgramCounterAdvancesByTheLength := by
  intro i s t hexec hno
  by_cases hbranch : i.mode = .rel
  · obtain ⟨d, hd⟩ := operand_of_mode_rel hbranch
    cases (exec_branch_eq hd s).symm.trans hexec
    have hpc := toNat_branchPC (branchTaken i.mnemonic s) s.pc d
    rw [hbranch]
    refine ⟨fun htaken => ?_, fun htaken => ⟨d, hd, ?_⟩⟩
    · rw [htaken]
      exact toNat_add_two s.pc
    · rw [htaken] at hpc ⊢
      exact hpc
  · rw [branchTaken_eq_false hbranch]
    refine ⟨fun _ => ?_, fun htaken => nomatch htaken⟩
    rw [exec_pc hexec hno hbranch]
    exact toNat_add_ofNat s.pc _

/-! ### The cycle count -/

/-- Every instruction takes the cycles of the timing rule (70_reset_and_hazards.md R197). -/
theorem exec_cyc {i : Instr} {s t : State} (hexec : exec i s = .next t) : t.cyc = cyclesOf i s := by
  cases instrKind i with
  | read h => exact exec_read_cyc h hexec
  | write h => exact exec_store_cyc h hexec
  | rmw h => exact exec_rmw_cyc h hexec
  | implied h => cases i <;> cases h <;> cases hexec <;> rfl
  | branch h =>
    cases (exec_branch_eq h s).symm.trans hexec
    rfl
  | redirect h =>
    cases i with
    | jmpAbs | jmpInd | jsr | rts | rti | brk =>
      cases hexec
      rfl
    | _ => simp [redirecting, Instr.mnemonic] at h

/-- The rows of the opcode table say what the text of the timing rule says. -/
theorem opcodeTable_cycles {e : OpcodeEntry} (h : e ∈ opcodeTable) :
    e.baseCycles = baseCyclesOf e.mnemonic e.mode ∧ e.pagePenalty = pagePenaltyOf e.mnemonic e.mode := by
  have hall : opcodeTable.all (fun e => decide (e.baseCycles = baseCyclesOf e.mnemonic e.mode ∧
      e.pagePenalty = pagePenaltyOf e.mnemonic e.mode)) = true := by decide +kernel
  exact of_decide_eq_true (List.all_eq_true.mp hall e h)

/-- Settles O16: class by class for the instructions, row by row for the table. -/
theorem cyclesFollowTheTimingRule : Obligations.CyclesFollowTheTimingRule :=
  ⟨fun _ _ _ => exec_cyc, fun _ => ⟨rfl, rfl, rfl⟩, fun _ _ h => opcodeTable_cycles (decodeOpcode_spec h).1⟩

end Sys2Proof.Machine
end

section
/-! SUPPORT and PROOFS. The step (30_encoding.md section 3, 10_state.md sections 4, 6 and 7, 60_exceptions.md sections 2
to 4): what a boundary takes, what a step leaves as it is, and what it records. -/

namespace Sys2Proof.Machine

open Sys2Proof.Safety

/-! ### The instruction a boundary runs -/

theorem step_of_runsInstruction {s : State} (h : RunsInstruction s) : step s = runInstruction s.latchInputs := by
  rw [step, s.event_eq_instruction_iff.mpr h]

/-- Settles O5: the fetched bytes decode to the instruction that is run. -/
theorem stepRunsTheDecodedInstruction : Obligations.StepRunsTheDecodedInstruction := by
  intro s i rest hruns hdecode
  rw [step_of_runsInstruction hruns, runInstruction, State.latchInputs_pc, hdecode]

/-- Where no edge is presented and none latched, the host input is all a boundary takes. -/
theorem latchInputs_of_runsInstruction {s : State} (h : RunsInstruction s) :
    s.latchInputs = s.setInputs s.inputs.tail := by
  obtain ⟨-, hpending, hedge, -⟩ := h
  rw [State.latchInputs, hpending, hedge, Bool.or_self, ← hpending]
  rfl

theorem encode_length (i : Instr) : (encode i).length = i.mode.length := by
  simpa using decode_length (decode_encode i [])

/-- Where an instruction's bytes are stored, the fetch gives them and leaves the state as it is (00_scope.md R4). -/
theorem State.fetch_stored {s : State} {i : Instr} {pc0 : Addr}
    (h : ∀ k (hk : k < (encode i).length), s.peek (pc0 + BitVec.ofNat 16 k) = some (encode i)[k]) :
    s.fetch pc0 = (encode i, s) := by
  have hopcode : s.busRead pc0 = i.opcode := by
    have hfirst := h 0 (Nat.succ_pos _)
    rw [show pc0 + BitVec.ofNat 16 0 = pc0 from BitVec.add_zero pc0] at hfirst
    exact State.busRead_of_peek hfirst
  obtain ⟨e, hrow, -, hmode⟩ := decodeOpcode_opcode i
  have hlength : fetchLength (s.busRead pc0) = (encode i).length := by
    rw [hopcode, fetchLength, hrow, encode_length, ← hmode]
    rfl
  rw [State.fetch, hlength, State.readBytes_of_peek h]

/-- Settles O6: the fetch gives the stored bytes, which decode to the instruction. -/
theorem stepRunsTheStoredInstruction : Obligations.StepRunsTheStoredInstruction := by
  intro s i hruns hstored
  refine ⟨?_, latchInputs_of_runsInstruction hruns⟩
  have hfetch : s.latchInputs.fetch s.pc = (encode i, s.latchInputs) := State.fetch_stored hstored
  have hdecode : decode (encode i) = .ok (i, []) := decode_of_encode_append (List.append_nil _)
  rw [stepRunsTheDecodedInstruction s i [] hruns (hfetch ▸ hdecode), hfetch]

/-! ### The illegal opcode -/

/-- A list of bytes as the number that has a bit set for each. -/
def byteMask (l : List Byte) : Nat := l.foldr (fun b m => 2 ^ b.toNat ||| m) 0

theorem testBit_byteMask (l : List Byte) (op : Byte) : (byteMask l).testBit op.toNat = decide (op ∈ l) := by
  induction l with
  | nil => exact Nat.zero_testBit _
  | cons b l ih =>
    rw [byteMask, List.foldr_cons, Nat.testBit_or, Nat.testBit_two_pow, ← byteMask, ih, Bool.eq_iff_iff]
    simp only [Bool.or_eq_true, decide_eq_true_eq, BitVec.toNat_inj, List.mem_cons, eq_comm (a := op)]

/-- The opcode bytes without a row are the 105 listed (30_encoding.md R77): as masks, the two lists have every bit
between them and none in common. -/
theorem decodeOpcode_eq_none_iff (op : Byte) : decodeOpcode op = none ↔ op ∈ illegalOpcodes := by
  have hmasks : byteMask (opcodeTable.map OpcodeEntry.opcode) ^^^ byteMask illegalOpcodes = 2 ^ 256 - 1 := by
    decide +kernel
  have hone := congrArg (Nat.testBit · op.toNat) hmasks
  simp only [Nat.testBit_xor, testBit_byteMask, Nat.testBit_two_pow_sub_one, op.isLt] at hone
  have hnone : decodeOpcode op = none ↔ op ∉ opcodeTable.map OpcodeEntry.opcode := by
    simp only [decodeOpcode, List.find?_eq_none, beq_iff_eq, List.mem_map, not_exists, not_and]
  rw [hnone]
  by_cases hop : op ∈ illegalOpcodes <;> simp_all

/-- At an illegal opcode byte the fetch reads that byte alone (60_exceptions.md R165). -/
theorem State.fetch_illegal {s : State} {pc0 : Addr} (h : decodeOpcode (s.busRead pc0) = none) :
    (s.fetch pc0).2 = s.afterRead pc0 := by
  rw [State.fetch, fetchLength, h]
  rfl

/-- A step at an illegal opcode byte records it, after one read (60_exceptions.md R165). -/
theorem step_illegal {s : State} (hruns : RunsInstruction s) (hillegal : s.busRead s.pc ∈ illegalOpcodes) :
    step s = .next ((s.latchInputs.afterRead s.pc).raiseDecodeError (s.busRead s.pc) s.pc) := by
  have hnone : decodeOpcode (s.latchInputs.busRead s.pc) = none := (decodeOpcode_eq_none_iff _).mpr hillegal
  rw [step_of_runsInstruction hruns]
  rcases decode_fetch s.latchInputs s.pc with ⟨e, -, hrow, -⟩ | ⟨-, hreject⟩
  · cases hnone.symm.trans hrow
  · rw [runInstruction, State.latchInputs_pc, hreject, State.fetch_illegal hnone]
    rfl

/-- A state with a fault recorded answers it (10_state.md R37). -/
theorem step_of_fault {s : State} {f : Fault} (h : s.fault = some f) : step s = .fault f := by
  rw [step, State.event, h]

/-- A read changes the count of draws at most, with the count written out. -/
theorem State.afterRead_eq_setDraws (s : State) (a : Addr) : s.afterRead a = s.setDraws (s.afterRead a).draws := by
  obtain ⟨d, hd⟩ := s.afterRead_eq a
  rw [hd]
  rfl

/-- What a read does to the count of draws does not depend on the host's inputs. -/
theorem State.afterRead_setInputs (s : State) (h : HostSchedule) (a : Addr) :
    (s.setInputs h).afterRead a = (s.afterRead a).setInputs h := by
  unfold State.afterRead
  rw [State.setInputs_cfg]
  cases cell s.cfg a <;> rfl

/-- Settles O7: the step records the fault after one read, and the state it leaves has it recorded. -/
theorem illegalOpcodeIsFatal : Obligations.IllegalOpcodeIsFatal := by
  refine ⟨decodeOpcode_eq_none_iff, fun s hruns hillegal => ?_⟩
  refine ⟨_, step_illegal hruns hillegal, rfl, ?_, step_of_fault rfl⟩
  rw [latchInputs_of_runsInstruction hruns, State.afterRead_setInputs, State.afterRead_eq_setDraws]
  rfl

/-! ### Everything a step can answer -/

/-- What a step that answers a next state did: an interrupt entry, an instruction in the state that has taken its host
input and its fetch reads, or the record of an illegal opcode. -/
inductive StepTaken (s t : State) : Prop
  | nmi (hevent : s.event = .nmi) (h : t = s.latchInputs.nmiEntry)
  | irq (hevent : s.event = .irq) (h : t = s.latchInputs.irqEntry)
  | instruction (hruns : RunsInstruction s) (i : Instr) (d : Nat) (h : exec i (s.latchInputs.setDraws d) = .next t)
  | illegal (hruns : RunsInstruction s) (hop : s.busRead s.pc ∈ illegalOpcodes) (d : Nat)
      (h : t = (s.latchInputs.setDraws d).raiseDecodeError (s.busRead s.pc) s.pc)

/-- Without a fault recorded a step answers a next state. -/
theorem exists_stepTaken {s : State} (h : s.fault = none) : ∃ t, step s = .next t ∧ StepTaken s t := by
  rcases step_cases s with ⟨f, hf, -⟩ | ⟨-, hevent, hstep⟩ | ⟨-, hevent, hstep⟩ | ⟨-, hevent, hstep⟩
  · cases h.symm.trans hf
  · exact ⟨_, hstep, .nmi hevent rfl⟩
  · exact ⟨_, hstep, .irq hevent rfl⟩
  · have hruns := s.event_eq_instruction_iff.mp hevent
    obtain ⟨d, hd⟩ := s.latchInputs.fetch_eq s.latchInputs.pc
    rcases runInstruction_cases s.latchInputs with ⟨i, -, hrun⟩ | ⟨hnone, hrun⟩
    · obtain ⟨t, hexec, -⟩ := exec_writes i (s.latchInputs.setDraws d)
      exact ⟨t, hstep.trans (hrun.trans (hd ▸ hexec)), .instruction hruns i d hexec⟩
    · exact ⟨_, hstep.trans (hrun.trans (hd ▸ rfl)), .illegal hruns ((decodeOpcode_eq_none_iff _).mp hnone) d rfl⟩

theorem stepTaken_of_step {s t : State} (h : step s = .next t) : StepTaken s t := by
  have hrunning : s.fault = none := by
    cases hf : s.fault with
    | none => rfl
    | some f => cases (step_of_fault hf).symm.trans h
  obtain ⟨u, hstep, htaken⟩ := exists_stepTaken hrunning
  cases hstep.symm.trans h
  exact htaken

/-! ### What a step leaves as it is -/

@[simp] theorem State.irqEntry_cfg (s : State) : s.irqEntry.cfg = s.cfg := by simp [State.irqEntry_eq]
@[simp] theorem State.irqEntry_nmiPending (s : State) : s.irqEntry.nmiPending = s.nmiPending := by
  simp [State.irqEntry_eq]
@[simp] theorem State.irqEntry_fault (s : State) : s.irqEntry.fault = s.fault := by simp [State.irqEntry_eq]
@[simp] theorem State.irqEntry_inputs (s : State) : s.irqEntry.inputs = s.inputs := by simp [State.irqEntry_eq]
@[simp] theorem State.nmiEntry_cfg (s : State) : s.nmiEntry.cfg = s.cfg := by simp [State.nmiEntry_eq]
@[simp] theorem State.nmiEntry_nmiPending (s : State) : s.nmiEntry.nmiPending = false := by simp [State.nmiEntry_eq]
@[simp] theorem State.nmiEntry_fault (s : State) : s.nmiEntry.fault = s.fault := by simp [State.nmiEntry_eq]
@[simp] theorem State.nmiEntry_inputs (s : State) : s.nmiEntry.inputs = s.inputs := by simp [State.nmiEntry_eq]

/-- An NMI entry does not set I (60_exceptions.md R173). -/
theorem State.nmiEntry_flag_i (s : State) : s.nmiEntry.flag .i = s.flag .i := by
  simp [State.nmiEntry_eq, State.flag]

/-- Settles O8: of what a step can do, only the record of an illegal opcode touches the fault. -/
theorem onlyARecordedFaultStops : Obligations.OnlyARecordedFaultStops := by
  refine ⟨rfl, fun s f hf => ⟨step_of_fault hf, fun stop hstop => ?_⟩, fun s hs => ?_⟩
  · obtain ⟨-, ⟨hnone, -⟩, -⟩ := hstop
    cases hnone.symm.trans hf
  · obtain ⟨t, hstep, htaken⟩ := exists_stepTaken hs
    refine ⟨t, hstep, ?_⟩
    cases htaken with
    | nmi _ h => exact .inl (h ▸ s.latchInputs.nmiEntry_fault.trans hs)
    | irq _ h => exact .inl (h ▸ s.latchInputs.irqEntry_fault.trans hs)
    | instruction _ i d h => exact .inl ((writes_of_exec h).frame.control.fault.trans hs)
    | illegal hruns hop d h => exact .inr ⟨hruns, hop, h ▸ rfl⟩

/-- Settles O10: the entries and `exec` keep what the boundary left. -/
theorem stepKeepsTheConfiguration : Obligations.StepKeepsTheConfiguration := by
  intro s t hstep
  cases stepTaken_of_step hstep with
  | nmi _ h => exact h ▸ ⟨s.latchInputs.nmiEntry_cfg, s.latchInputs.nmiEntry_inputs⟩
  | irq _ h => exact h ▸ ⟨s.latchInputs.irqEntry_cfg, s.latchInputs.irqEntry_inputs⟩
  | instruction _ i d h =>
    obtain ⟨hcfg, -, -, hinputs⟩ := (writes_of_exec h).frame.control
    exact ⟨hcfg, hinputs⟩
  | illegal _ _ d h => exact h ▸ ⟨rfl, rfl⟩

theorem inv_enterInterrupt {s : State} (h : Inv s) (ret vector : Addr) (i : Bool) :
    Inv (s.enterInterrupt ret vector i) :=
  ⟨State.enterInterrupt_wf h.1 ret vector i, (State.enterInterrupt_bit_five s ret vector i).trans h.2⟩

theorem inv_setCyc {s : State} (h : Inv s) (c : Nat) : Inv (s.setCyc c) := h

theorem inv_setNmiPending {s : State} (h : Inv s) (b : Bool) : Inv (s.setNmiPending b) := h

/-- Settles O11: the entries push within the array and set flags, and every instruction writes within `Writes`. -/
theorem stepKeepsTheInvariant : Obligations.StepKeepsTheInvariant := by
  intro s t hinv hstep
  have hlatched : Inv s.latchInputs := hinv
  cases stepTaken_of_step hstep with
  | nmi _ h =>
    rw [h, State.nmiEntry_eq]
    exact inv_setCyc (inv_setNmiPending (inv_enterInterrupt hlatched _ _ _) _) _
  | irq _ h =>
    rw [h, State.irqEntry_eq]
    exact inv_setCyc (inv_enterInterrupt hlatched _ _ _) _
  | instruction _ i d h =>
    have hwrites := writes_of_exec h
    exact ⟨hwrites.canonical hlatched.1, hwrites.bitFive hlatched.2⟩
  | illegal _ _ d h =>
    rw [h]
    exact hlatched

/-! ### Events -/

section

variable {s : State} (hs : Running s)
include hs

theorem event_eq_nmi_iff : s.event = .nmi ↔ s.nmiPending = true ∨ s.input.nmiEdge = true := by
  unfold State.event
  rw [hs]
  cases s.nmiPending <;> cases s.input.nmiEdge <;> cases s.input.irqLine <;> cases s.flag .i <;> simp

theorem event_eq_irq_iff : s.event = .irq ↔
    s.nmiPending = false ∧ s.input.nmiEdge = false ∧ s.input.irqLine = true ∧ s.flag .i = false := by
  unfold State.event
  rw [hs]
  cases s.nmiPending <;> cases s.input.nmiEdge <;> cases s.input.irqLine <;> cases s.flag .i <;> simp

end

theorem event_of_fault {s : State} {f : Fault} (h : s.fault = some f) : s.event = .stopped f := by
  rw [State.event, h]

/-- A boundary that takes an interrupt has no fault recorded. -/
theorem running_of_event {s : State} (h : s.event = .nmi ∨ s.event = .irq) : Running s := by
  cases hf : s.fault with
  | none => exact hf
  | some f => simp [event_of_fault hf] at h

theorem step_of_nmi {s : State} (h : s.event = .nmi) : step s = .next s.latchInputs.nmiEntry := by
  rw [step, h]

theorem step_of_irq {s : State} (h : s.event = .irq) : step s = .next s.latchInputs.irqEntry := by
  rw [step, h]

/-- Settles O20: after an NMI entry nothing is pending and I is as it was, so that an asserted IRQ is next. -/
theorem eventPriority : Obligations.EventPriority := by
  refine ⟨fun _ _ => event_of_fault, fun _ => event_eq_nmi_iff, fun _ => event_eq_irq_iff,
    State.event_eq_instruction_iff, fun s t hevent hstep hi hinput => ?_⟩
  cases (step_of_nmi hevent).symm.trans hstep
  have hs : Running s := running_of_event (.inl hevent)
  have hrunning : Running s.latchInputs.nmiEntry := s.latchInputs.nmiEntry_fault.trans hs
  have hmask : s.latchInputs.nmiEntry.flag .i = false := s.latchInputs.nmiEntry_flag_i.trans hi
  rw [event_eq_irq_iff hrunning, hinput]
  exact ⟨rfl, rfl, rfl, hmask⟩

/-- A step depends on the event and on the state that has taken the host input alone. -/
theorem step_congr {s t : State} (hevent : s.event = t.event) (hlatch : s.latchInputs = t.latchInputs) :
    step s = step t := by
  rw [step, step, hevent, hlatch]

theorem latchInputs_nmiPending_eq_false {s : State} (hpending : s.nmiPending = false)
    (hedge : s.input.nmiEdge = false) : s.latchInputs.nmiPending = false := by
  rw [State.latchInputs_nmiPending, hpending, hedge, Bool.or_self]

/-- After any step no NMI is pending: its entry clears the latch, and no other event is taken while it is set
(60_exceptions.md R167). -/
theorem nmiPending_of_step {s t : State} (h : step s = .next t) : t.nmiPending = false := by
  cases stepTaken_of_step h with
  | nmi _ ht => exact ht ▸ s.latchInputs.nmiEntry_nmiPending
  | irq hevent ht =>
    obtain ⟨hpending, hedge, -⟩ := (event_eq_irq_iff (running_of_event (.inr hevent))).mp hevent
    exact ht ▸ s.latchInputs.irqEntry_nmiPending.trans (latchInputs_nmiPending_eq_false hpending hedge)
  | instruction hruns i d ht =>
    obtain ⟨-, hpending, hedge, -⟩ := hruns
    exact (writes_of_exec ht).frame.control.nmiPending.trans (latchInputs_nmiPending_eq_false hpending hedge)
  | illegal hruns _ d ht =>
    obtain ⟨-, hpending, hedge, -⟩ := hruns
    exact ht ▸ latchInputs_nmiPending_eq_false hpending hedge

/-- Settles O21: the two inputs that may differ are taken into one latched state and one event. -/
theorem interruptInputs : Obligations.InterruptInputs := by
  refine ⟨fun _ => rfl, fun _ _ => nmiPending_of_step, fun _ hs => (event_eq_nmi_iff hs).mpr,
    fun s rest irq hpending => step_congr ?_ ?_, fun s rest edge hmask => step_congr ?_ ?_, fun s hevent => ?_⟩
  · simp [State.event, hpending]
  · simp [State.latchInputs, hpending, State.setInputs, State.setNmiPending]
  · have hmask' : getFlag s.p .i = true := hmask
    simp [State.event, State.input, State.flag, hmask']
  · simp [State.latchInputs, State.input, State.setInputs, State.setNmiPending]
  · obtain ⟨-, -, hline, hmask⟩ := (event_eq_irq_iff (running_of_event (.inr hevent))).mp hevent
    exact ⟨hline, hmask⟩

end Sys2Proof.Machine
end

section
/-! SUPPORT and PROOFS. The interrupt entries, BRK and the returns (60_exceptions.md sections 5 and 6,
49_flags_transfer_misc.md R162, 47_jump_call_return.md R142, R143): what an entry leaves, and what a return undoes. -/

namespace Sys2Proof.Machine

open Sys2Proof.Safety

/-! ### What an entry leaves -/

/-- What an entry with the return address `ret` leaves in `t`: the three bytes on the stack, `PC` from the vector, B
set, and everything else but the flags `fs` as it was in `s` (60_exceptions.md R172 to R175). -/
structure Entered (ret vector : Addr) (fs : List Flag) (s t : State) : Prop where
  high : t.peek (stackAddr s.sp) = some (hiByte ret)
  low : t.peek (stackAddr (s.sp - 1)) = some (loByte ret)
  status : t.peek (stackAddr (s.sp - 2)) = some (s.p ||| 0x20)
  sp : t.sp = s.sp - 3
  pc : t.pc = wordOf (s.busRead (vector + 1)) (s.busRead vector)
  flagB : t.flag .b = true
  frame : Frame [.sp] fs s t
  memory : SameMemoryBut [stackAddr s.sp, stackAddr (s.sp - 1), stackAddr (s.sp - 2)] s t

theorem entered_enterInterrupt {s : State} (hm : s.mem.wf = true) (ret : Addr) {vector : Addr} {i : Bool}
    {fs : List Flag} (hb : .b ∈ fs) (hi : i = true → .i ∈ fs) (hv : 0x8000 ≤ vector.toNat)
    (hv' : vector.toNat < 65535) : Entered ret vector fs s (s.enterInterrupt ret vector i) := by
  obtain ⟨hhigh, hlow, hstatus⟩ := State.read_enterInterrupt hm ret vector i
  refine ⟨?_, ?_, ?_, ?_, ?_, ?_, ?_, s.peek_enterInterrupt_other ret vector i⟩
  · rw [State.peek_stackAddr, hhigh]
  · rw [State.peek_stackAddr, hlow]
  · rw [sub_two, State.peek_stackAddr, hstatus]
    rfl
  · rw [State.enterInterrupt_sp, sub_three]
  · rw [State.enterInterrupt_pc s ret vector i hv hv', State.read16_of_cartridge hv]
  · rw [State.flag, State.enterInterrupt_flag, if_pos rfl]
  · exact ((Within.refl [.sp] fs true s).enterInterrupt (by simp) rfl hb hi ret vector).frame

/-- Settles O18: the step is the IRQ entry in the state that has taken its host input. -/
theorem irqEntry : Obligations.IrqEntry := by
  intro s hm hs hpending hedge hline hmask
  have hevent : s.event = .irq := (event_eq_irq_iff hs).mpr ⟨hpending, hedge, hline, hmask⟩
  have hlatch : s.latchInputs.nmiPending = false := latchInputs_nmiPending_eq_false hpending hedge
  have hentered : Entered s.pc irqVector [.b, .i] s.latchInputs (s.latchInputs.enterInterrupt s.pc irqVector true) :=
    entered_enterInterrupt (s := s.latchInputs) hm s.pc (by simp) (by simp) (by decide) (by decide)
  have hflagI : (s.latchInputs.enterInterrupt s.pc irqVector true).flag .i = true := State.enterInterrupt_flag _ _ _ _ _
  rw [step_of_irq hevent, State.irqEntry_eq, State.latchInputs_pc]
  generalize s.latchInputs.enterInterrupt s.pc irqVector true = t at *
  obtain ⟨hregs, hflags, hcfg, hnmi, hfault, hinputs⟩ := hentered.frame
  exact ⟨_, rfl, hentered.high, hentered.low, hentered.status, hentered.sp, hentered.pc, hentered.flagB, hflagI, hflags,
    hregs, rfl, hentered.memory, hcfg, hfault.trans hs, hnmi.trans hlatch, hinputs⟩

/-- Settles O19: the step is the NMI entry in the state that has taken its host input. -/
theorem nmiEntry : Obligations.NmiEntry := by
  intro s hm hs hnmi
  have hevent : s.event = .nmi := (event_eq_nmi_iff hs).mpr hnmi
  have hentered : Entered s.pc nmiVector [.b] s.latchInputs (s.latchInputs.enterInterrupt s.pc nmiVector false) :=
    entered_enterInterrupt (s := s.latchInputs) hm s.pc (by simp) (by simp) (by decide) (by decide)
  rw [step_of_nmi hevent, State.nmiEntry_eq, State.latchInputs_pc]
  generalize s.latchInputs.enterInterrupt s.pc nmiVector false = t at *
  obtain ⟨hregs, hflags, hcfg, -, hfault, hinputs⟩ := hentered.frame
  exact ⟨_, rfl, hentered.high, hentered.low, hentered.status, hentered.sp, hentered.pc, hentered.flagB, hflags,
    hregs, rfl, rfl, hentered.memory, hcfg, hfault.trans hs, hinputs⟩

/-! ### BRK -/

theorem exec_brk (s : State) :
    exec .brk s = .next (((s.setFlag .b true).enterInterrupt (s.pc + 2) irqVector true).setCyc 7) := rfl

/-- Settles O56: BRK is the entry from the state with B set, and its return address skips the padding byte. -/
theorem brkEntersTheBreakVector : Obligations.BrkEntersTheBreakVector := by
  refine ⟨encodedBy_of_check (by decide +kernel), fun s hm => ?_⟩
  have hentered : Entered (s.pc + 2) irqVector [.b, .i] (s.setFlag .b true)
      ((s.setFlag .b true).enterInterrupt (s.pc + 2) irqVector true) :=
    entered_enterInterrupt (s := s.setFlag .b true) hm _ (by simp) (by simp) (by decide) (by decide)
  have hflagI : ((s.setFlag .b true).enterInterrupt (s.pc + 2) irqVector true).flag .i = true :=
    State.enterInterrupt_flag _ _ _ _ _
  have hstatus : (s.setFlag .b true).p ||| 0x20 = s.p ||| 0x30 := BitVec.or_assoc s.p 0x10 0x20
  have hret := (hiByte_mul_add_loByte (s.pc + 2)).trans (toNat_add_two s.pc)
  have hexec := exec_brk s
  generalize (s.setFlag .b true).enterInterrupt (s.pc + 2) irqVector true = t at *
  exact ⟨_, ⟨hexec, rfl⟩, ⟨_, _, hentered.high, hentered.low, hret⟩, hstatus ▸ hentered.status, hentered.sp,
    hentered.flagB, hflagI, hentered.pc, (((Frame.refl [.sp] [.b, .i] s).setFlag (by simp) true).trans
      hentered.frame).setCyc 7, hentered.memory⟩

/-! ### The returns -/

/-- RTI run in a state with the memory and the registers an entry left gives back the return address and the status, and
every register is as it was before the entry (60_exceptions.md R177). -/
theorem exec_rti_after_entry {s t : State} (hm : s.mem.wf = true) {ret vector : Addr} {i : Bool}
    (hmem : t.mem = (s.enterInterrupt ret vector i).mem) (hregs : SameRegsBut [] (s.enterInterrupt ret vector i) t) :
    ∃ u, exec .rti t = .next u ∧ u.pc = ret ∧ u.p = s.readP ∧ SameRegsBut [] s u := by
  have hsp : t.sp = s.sp - 1 - 1 - 1 := (hregs .sp (by simp)).trans (State.enterInterrupt_sp s ret vector i)
  have hexec : exec .rti t = .next (t.returnFromInterrupt.setCyc 6) := rfl
  rw [State.returnFromInterrupt_after_entry hm hmem hsp] at hexec
  refine ⟨_, hexec, rfl, rfl, fun r _ => ?_⟩
  cases r with
  | sp => rfl
  | a => exact (hregs .a (by simp)).trans (State.enterInterrupt_a s ret vector i)
  | x => exact (hregs .x (by simp)).trans (State.enterInterrupt_x s ret vector i)
  | y => exact (hregs .y (by simp)).trans (State.enterInterrupt_y s ret vector i)

@[simp] theorem regOf_setNmiPending (s : State) (r : Reg) (b : Bool) : regOf (s.setNmiPending b) r = regOf s r := by
  cases r <;> rfl

/-- An IRQ or NMI step leaves the memory and the registers of an entry that returns to `PC`. -/
theorem entry_of_event {s t : State} (hevent : s.event = .irq ∨ s.event = .nmi) (hstep : step s = .next t) :
    ∃ vector i, t.mem = (s.latchInputs.enterInterrupt s.pc vector i).mem ∧
      SameRegsBut [] (s.latchInputs.enterInterrupt s.pc vector i) t := by
  rcases hevent with hevent | hevent
  · rw [step_of_irq hevent, State.irqEntry_eq] at hstep
    cases hstep
    exact ⟨irqVector, true, State.setCyc_mem _ _, fun r _ => regOf_setCyc _ r _⟩
  · rw [step_of_nmi hevent, State.nmiEntry_eq] at hstep
    cases hstep
    exact ⟨nmiVector, false, State.setCyc_mem _ _, fun r _ => (regOf_setCyc _ r _).trans (regOf_setNmiPending _ r _)⟩

/-- Settles O22: the entry pushed what RTI pulls. -/
theorem returnFromInterruptResumes : Obligations.ReturnFromInterruptResumes := by
  intro s t hm hevent hstep
  obtain ⟨vector, i, hmem, hentry⟩ := entry_of_event hevent hstep
  obtain ⟨u, hexec, hpc, hp, hregs⟩ := exec_rti_after_entry (s := s.latchInputs) hm hmem hentry
  refine ⟨u, hexec, hpc, ?_, hregs⟩
  rw [State.readP, hp]
  simp [State.readP, readStatus, BitVec.or_assoc]

/-- Settles O23: BRK pushed the address two bytes on and `P` with B set, which RTI pulls. -/
theorem returnFromBreakSkipsThePadding : Obligations.ReturnFromBreakSkipsThePadding := by
  intro s t hm hbrk
  rw [exec_brk] at hbrk
  cases hbrk
  obtain ⟨u, hexec, hpc, hp, hregs⟩ :=
    exec_rti_after_entry (s := s.setFlag .b true) hm (State.setCyc_mem _ _) (fun r _ => regOf_setCyc _ r _)
  have hflag (f : Flag) : u.flag f = getFlag (setFlag s.p .b true) f := by
    rw [State.flag, hp]
    exact getFlag_readStatus _ f
  refine ⟨u, hexec, hpc, ?_, fun f hf => ?_, fun r hr => (hregs r hr).trans ?_⟩
  · simp [hflag]
  · have hne : f ≠ .b := by simpa using hf
    rw [hflag, getFlag_setFlag, if_neg (by simp [hne])]
    rfl
  · cases r <;> rfl

/-! ### A call and its return -/

/-- Where memory and `SP` are as a 16-bit push left them, a 16-bit pull gives the value back (20_memory.md R60). -/
theorem State.pull16_after_push16 {s t : State} (hm : s.mem.wf = true) {w : Addr} (hmem : t.mem = (s.push16 w).mem)
    (hsp : t.sp = (s.push16 w).sp) : t.pull16 = (w, t.setSP s.sp) := by
  obtain ⟨hhi, hlo⟩ := State.read_push16 hm w
  have hlow : t.sp + 1 = s.sp - 1 := (congrArg (· + 1) hsp).trans (sub_add_cancel_byte _)
  apply Prod.ext
  · rw [State.pull16_fst, hlow, sub_add_cancel_byte, hmem, hhi, hlo, wordOf_bytes]
  · rw [State.pull16_snd, hlow, sub_add_cancel_byte]

/-- A frame that lets `SP` change holds without it where `SP` is back. -/
theorem frame_of_sp_eq {fs : List Flag} {s t : State} (h : Frame [.sp] fs s t) (hsp : t.sp = s.sp) :
    Frame [] fs s t where
  regs r _ := by
    cases r with
    | sp => exact hsp
    | a | x | y => exact h.regs _ (by decide)
  flags := h.flags
  control := h.control

/-- Settles O51: RTS pulls the address JSR pushed, which is one before the next instruction. -/
theorem returnFromCallResumes : Obligations.ReturnFromCallResumes := by
  intro s t addr hm hjsr
  obtain rfl : ((s.push16 (s.pc + 2)).setPC addr).setCyc 6 = t := Host.Outcome.next.inj hjsr
  have hcalled : Frame [.sp] [] s (((s.push16 (s.pc + 2)).setPC addr).setCyc 6) :=
    ((((Frame.refl [.sp] [] s).push (by simp) _).push (by simp) _).setPC addr).setCyc 6
  have hmem : (((s.push16 (s.pc + 2)).setPC addr).setCyc 6).mem = (s.push16 (s.pc + 2)).mem := rfl
  have hsp : (((s.push16 (s.pc + 2)).setPC addr).setCyc 6).sp = (s.push16 (s.pc + 2)).sp := rfl
  generalize ((s.push16 (s.pc + 2)).setPC addr).setCyc 6 = t at *
  have hexec : exec .rts t = .next ((t.pull16.2.setPC (t.pull16.1 + 1)).setCyc 6) := rfl
  rw [State.pull16_after_push16 hm hmem hsp] at hexec
  exact ⟨_, hexec, BitVec.add_assoc s.pc 2 1,
    frame_of_sp_eq (((hcalled.setSP (by simp) s.sp).setPC _).setCyc 6) rfl⟩

end Sys2Proof.Machine
end

section
/-! SUPPORT and PROOFS. The flag instructions, the transfers and NOP (49_flags_transfer_misc.md R149 to R161, R163). -/

namespace Sys2Proof.Machine

open Sys2Proof.Safety

/-- What an `implied` instruction that writes one flag answers. -/
theorem exec_implied_setFlag {i : Instr} {f : Flag} {b : Bool} {s : State} (hf : f ≠ .u)
    (hexec : exec i s = .next (((s.advance 1).setFlag f b).setCyc 2)) (hcyc : cyclesOf i s = 2) :
    ∃ t, Completes i s t ∧ t.flag f = b ∧ Frame [] [f] s t ∧ SameMemory s t ∧ t.pc = s.pc + 1 := by
  have hframe := ((Frame.refl [] [f] s).advance 1).setFlag (f := f) (by simp) b
  refine ⟨_, ⟨hexec, hcyc.symm⟩, ?_, hframe.setCyc 2, fun _ => rfl, rfl⟩
  rw [State.flag_setCyc, State.flag, State.setFlag_p, getFlag_setFlag, if_pos ⟨rfl, hf⟩]

/-- Settles O54: each of the seven writes the flag and the value listed with it. -/
theorem flagInstructionsWriteOneFlag : Obligations.FlagInstructionsWriteOneFlag := by
  refine ⟨encodedBy_of_check (by decide +kernel), encodedBy_of_check (by decide +kernel),
    encodedBy_of_check (by decide +kernel), encodedBy_of_check (by decide +kernel),
    encodedBy_of_check (by decide +kernel), encodedBy_of_check (by decide +kernel),
    encodedBy_of_check (by decide +kernel), fun p hp s => ?_⟩
  simp only [List.mem_cons, List.not_mem_nil, or_false] at hp
  rcases hp with rfl | rfl | rfl | rfl | rfl | rfl | rfl
  all_goals exact exec_implied_setFlag (by decide) rfl rfl

/-- What a transfer with N and Z after it answers: one register written with another's value. -/
theorem exec_transfer {i : Instr} {src dst : Reg} {s : State}
    (hexec : exec i s = .next ((loadEffect dst (regOf s src) (s.advance 1)).setCyc 2)) (hcyc : cyclesOf i s = 2) :
    ∃ t, Completes i s t ∧ regOf t dst = regOf s src ∧ FollowsNZ (regOf s src) t ∧ Frame [dst] [.n, .z] s t ∧
      SameMemory s t ∧ t.pc = s.pc + 1 := by
  obtain ⟨t, hdone, hdst, hnz, hrest⟩ := exec_implied_load hexec hcyc
  exact ⟨t, hdone, hdst, hdst ▸ hnz, hrest⟩

/-- Settles O55: five are loads of a register from a register, and TXS writes `SP` alone. -/
theorem transfersCopyARegister : Obligations.TransfersCopyARegister := by
  refine ⟨encodedBy_of_check (by decide +kernel), encodedBy_of_check (by decide +kernel),
    encodedBy_of_check (by decide +kernel), encodedBy_of_check (by decide +kernel),
    encodedBy_of_check (by decide +kernel), encodedBy_of_check (by decide +kernel), fun p hp s => ?_, fun s => ?_⟩
  · simp only [List.mem_cons, List.not_mem_nil, or_false] at hp
    rcases hp with rfl | rfl | rfl | rfl | rfl
    all_goals exact exec_transfer rfl rfl
  · have hframe := ((Frame.refl [.sp] [] s).advance 1).setSP (by simp) s.x
    exact ⟨_, ⟨rfl, rfl⟩, rfl, hframe.setCyc 2, rfl, fun _ => rfl, rfl⟩

theorem ofNat_toNat_add (a : Addr) (n : Nat) : BitVec.ofNat 16 (a.toNat + n) = a + BitVec.ofNat 16 n := by
  rw [BitVec.ofNat_add, BitVec.ofNat_toNat, BitVec.setWidth_eq]

/-- Settles O57: NOP is the advance to the next instruction. -/
theorem nopChangesNothingElse : Obligations.NopChangesNothingElse := by
  refine ⟨encodedBy_of_check (by decide +kernel), fun s => ?_⟩
  rw [ofNat_toNat_add]
  rfl

end Sys2Proof.Machine
end

section
/-! SUPPORT and PROOFS. The bus (20_memory.md sections 2, 3 and 6), the canonical form of memory (10_state.md section 7)
and the reset sequence (70_reset_and_hazards.md R186). -/

namespace Sys2Proof.Machine

open Sys2Proof.Safety

/-! ### Canonical memories -/

/-- The first cell of a canonical memory tells it from a memory that lists only later cells. -/
theorem Memory.read_head_ne {k : Nat} {v : Byte} {m m' : Memory} (hm : Memory.wf ((k, v) :: m) = true)
    (hm' : ∀ e ∈ m', k < e.1) : Memory.read ((k, v) :: m) k ≠ m'.read k := by
  obtain ⟨-, hv, -, -⟩ := Memory.wf_cons.mp hm
  rw [Memory.read, if_pos rfl, Memory.read_of_lt hm']
  exact hv

/-- Canonical memories with equal contents have the same first cell and equal tails. -/
theorem Memory.ext {m m' : Memory} (hm : m.wf = true) (hm' : m'.wf = true) (h : ∀ c, m.read c = m'.read c) :
    m = m' := by
  induction m generalizing m' with
  | nil =>
    cases m' with
    | nil => rfl
    | cons e m' => exact absurd (h e.1).symm (Memory.read_head_ne hm' (by simp))
  | cons e m ih =>
    obtain ⟨k, v⟩ := e
    cases m' with
    | nil => exact absurd (h k) (Memory.read_head_ne hm (by simp))
    | cons e' m' =>
      obtain ⟨k', v'⟩ := e'
      obtain ⟨-, -, hlt, hwf⟩ := Memory.wf_cons.mp hm
      obtain ⟨-, -, hlt', hwf'⟩ := Memory.wf_cons.mp hm'
      rcases Nat.lt_trichotomy k k' with hk | rfl | hk
      · refine absurd (h k) (Memory.read_head_ne hm ?_)
        simpa using ⟨hk, fun c b hc => Nat.lt_trans hk (hlt' (c, b) hc)⟩
      · have hv : v = v' := by simpa [Memory.read] using h k
        have htail (c : Nat) : Memory.read m c = Memory.read m' c := by
          by_cases hc : c = k
          · rw [hc, Memory.read_of_lt hlt, Memory.read_of_lt hlt']
          · simpa [Memory.read, hc] using h c
        rw [hv, ih hwf hwf' htail]
      · refine absurd (h k').symm (Memory.read_head_ne hm' ?_)
        simpa using ⟨hk, fun c b hc => Nat.lt_trans hk (hlt (c, b) hc)⟩

/-- Settles O30: the parts are the rules of reading and writing the array. -/
theorem canonicalMemoriesAreEqualData : Obligations.CanonicalMemoriesAreEqualData :=
  ⟨fun _ _ => Memory.ext, fun m c v hm hc =>
    ⟨Memory.write_wf hm hc v, Memory.read_write_same hm c v, fun _ => Memory.read_write_other m v⟩⟩

/-! ### The bus -/

/-- An address that names a cell is storable unless the mapper ignores the write (20_memory.md R48, R52). -/
theorem storable_iff {cfg : Cfg} {a : Addr} {c : Nat} (h : cell cfg a = some c) :
    storable cfg a = true ↔ ¬(0x8000 ≤ a.toNat ∧ cfg.mapper0Write = .ignore) := by
  have hcell : ¬(0x2000 ≤ a.toNat ∧ a.toNat < 0x4000) := by
    rw [← cell_eq_none_iff (cfg := cfg), h]
    simp
  simp only [storable, Bool.and_eq_true, Bool.or_eq_true, decide_eq_true_eq, beq_iff_eq]
  cases cfg.mapper0Write <;> simp <;> omega

/-- A write to the picture-unit window is lost (20_memory.md R48). -/
theorem State.busWrite_of_window {s : State} {a : Addr} (v : Byte) (h : cell s.cfg a = none) : s.busWrite a v = s := by
  rw [State.busWrite_eq, h]

/-- A write where nothing is stored changes no state. -/
theorem State.busWrite_of_not_storable {s : State} {a : Addr} (v : Byte) (h : storable s.cfg a = false) :
    s.busWrite a v = s := by
  cases hc : cell s.cfg a with
  | none => exact State.busWrite_of_window v hc
  | some c =>
    rw [State.busWrite_eq, hc]
    exact if_pos (not_not.mp (mt (storable_iff hc).mpr (by simp [h])))

/-- A write to a storable address changes the one byte of its cell (20_memory.md R45, R52). -/
theorem State.busWrite_of_storable {s : State} {a : Addr} {c : Nat} (v : Byte) (hc : cell s.cfg a = some c)
    (h : storable s.cfg a = true) : s.busWrite a v = s.setMem (s.mem.write c v) := by
  rw [State.busWrite_eq, hc]
  exact if_neg ((storable_iff hc).mp h)

/-- Settles O24: region by region for the cells, and by what an address names for the reads and the writes. -/
theorem busRegions : Obligations.BusRegions := by
  refine ⟨fun _ _ => cell_ram, fun _ _ => cell_window, fun _ _ => cell_plain, fun cfg a ha => ?_, fun s a c hc => ?_,
    fun s a hc => ?_, fun _ _ v => State.busWrite_of_window v, fun _ _ v => State.busWrite_of_not_storable v,
    fun _ _ v _ => State.busWrite_of_storable v, fun s a v hm => ⟨stores_busWrite hm rfl rfl a v, ?_⟩⟩
  · rw [cell_cartridge ha, mapperCell]
    cases cfg.mapper
    cases cfg.prgBanks <;> rfl
  · exact ⟨State.busRead_of_cell hc, State.afterRead_of_cell hc, State.peek_eq_some_iff.mpr ⟨c, hc, rfl⟩⟩
  · exact ⟨State.busRead_of_window hc, State.afterRead_of_window hc, by rw [State.peek, hc]; rfl⟩
  · obtain ⟨m, hwrite⟩ := s.busWrite_eq_setMem a v
    rw [hwrite]
    rfl

theorem ofNat_mod_eq_add (a : Addr) (n : Nat) : BitVec.ofNat 16 ((a.toNat + n) % 65536) = a + BitVec.ofNat 16 n := by
  rw [← toNat_add_ofNat, BitVec.ofNat_toNat, BitVec.setWidth_eq]

/-- Settles O28: the word is the two bytes joined, since the first read leaves memory as it is. -/
theorem wordsAreLittleEndian : Obligations.WordsAreLittleEndian := by
  intro s a lo hi hlo hhi
  rw [ofNat_mod_eq_add] at hhi
  have hhigh : (s.afterRead a).busRead (a + 1) = hi := State.busRead_of_peek ((s.peek_afterRead a _).trans hhi)
  rw [State.read16, State.busRead_of_peek hlo, hhigh, toNat_wordOf]

/-! ### Reset -/

/-- The word of the reset vector, in the cells mapper 0 gives its two bytes (20_memory.md R51, R57). -/
theorem read16_resetVector (s : State) :
    (s.read16 resetVector).toNat =
      (s.mem.read (mapperCell s.cfg 0xFFFD)).toNat * 256 + (s.mem.read (mapperCell s.cfg 0xFFFC)).toNat := by
  have hv : 0x8000 ≤ resetVector.toNat := by decide
  rw [State.read16_of_cartridge hv, toNat_wordOf, State.busRead_cartridge (by decide), State.busRead_cartridge hv]
  rfl

/-- Settles O17: the registers are the sequence's own, and `PC` is read through mapper 0 where the mode asks for it. -/
theorem resetSequence : Obligations.ResetSequence := by
  intro s
  refine ⟨rfl, rfl, rfl, rfl, rfl, rfl, rfl, rfl, rfl, rfl, fun hmode => ?_, fun hmode hbanks => ?_,
    fun hmode hbanks => ?_⟩
  · simp only [State.applyReset, hmode]
  · simp only [State.applyReset, hmode]
    rw [read16_resetVector, mapperCell_one hbanks, mapperCell_one hbanks]
    rfl
  · simp only [State.applyReset, hmode]
    rw [read16_resetVector, mapperCell_two hbanks (by decide), mapperCell_two hbanks (by decide)]
    rfl

/-- Settles O12: the values are those of the record, and the rest is `reset_eq_applyReset`. -/
theorem resetStateMeetsTheInvariant : Obligations.ResetStateMeetsTheInvariant :=
  ⟨rfl, rfl, rfl, rfl, rfl, rfl, rfl, rfl, reset_eq_applyReset, rfl, by decide⟩

end Sys2Proof.Machine
end

section
/-! SUPPORT and PROOFS. The address-mode resolver (30_encoding.md R82 to R95): the addresses and page crossings as
numbers. -/

namespace Sys2Proof.Machine

open Sys2Proof.Safety

/-- Settles O31: the target of REL is `branchTarget`, as a number. -/
theorem resolveWithoutMemory : Obligations.ResolveWithoutMemory := by
  refine fun s => ⟨rfl, rfl, fun _ => rfl, fun d => ⟨branchTarget s.pc d, rfl, toNat_branchTarget s.pc d, ?_⟩⟩
  rw [← toNat_add_two]
  exact pageDiffers_eq _ _

/-- A memory operand in a mode that crosses no page (30_encoding.md R86 to R89, R93). -/
theorem State.resolve_uncrossed {m : MemOperand} (s : State) (h : m.mode ∉ [.absx, .absy, .izy]) :
    s.resolve (.mem m) = ⟨some (s.ea m), .mem, false⟩ := by
  rw [State.resolve, s.pageCrossed_eq_false h]

/-- A zero-page address plus an index wraps within the page (30_encoding.md R87, R88). -/
theorem zeroPage_add (z v : Byte) : zeroPage (z + v) = BitVec.ofNat 16 ((z.toNat + v.toNat) % 256) := by
  rw [zeroPage_eq, BitVec.toNat_add]

/-- Settles O32: the byte is added to its index before it is made an address. -/
theorem resolveZeroPage : Obligations.ResolveZeroPage := by
  intro s z
  rw [← zeroPage_eq, ← zeroPage_add, ← zeroPage_add]
  exact ⟨s.resolve_uncrossed (by simp [MemOperand.mode]), s.resolve_uncrossed (by simp [MemOperand.mode]),
    s.resolve_uncrossed (by simp [MemOperand.mode])⟩

/-- An address plus an index lies on another page exactly if its high byte differs (30_encoding.md R90). -/
theorem pageDiffers_add_index (a : Addr) (v : Byte) :
    pageDiffers a (a + v.setWidth 16) = decide (a.toNat / 256 ≠ (a.toNat + v.toNat) % 65536 / 256) := by
  rw [pageDiffers_eq, add_index_eq, BitVec.toNat_ofNat]

/-- Settles O33: the base plus the index, and the two pages compared. -/
theorem resolveAbsolute : Obligations.ResolveAbsolute := by
  intro s base
  rw [← add_index_eq, ← add_index_eq, ← pageDiffers_add_index, ← pageDiffers_add_index]
  exact ⟨s.resolve_uncrossed (by simp [MemOperand.mode]), rfl, rfl⟩

/-- The word a zero-page pointer holds, its addresses as numbers (30_encoding.md R93, R94). -/
theorem State.zeroPagePointer_eq {s : State} {t lo hi : Byte} (hlo : s.peek (BitVec.ofNat 16 t.toNat) = some lo)
    (hhi : s.peek (BitVec.ofNat 16 ((t.toNat + 1) % 256)) = some hi) : s.zeroPagePointer t = wordOf hi lo :=
  State.zeroPagePointer_of_peek (zeroPage_eq t ▸ hlo) (zeroPage_add t 1 ▸ hhi)

/-- Settles O34: the pointer is the word at its zero-page address; IZY adds Y to it and compares pages. -/
theorem resolvePointers : Obligations.ResolvePointers := by
  intro s z lo hi
  refine ⟨fun hlo hhi => ?_, fun hlo hhi => ?_⟩
  · have hsum : (z + s.x).toNat = (z.toNat + s.x.toNat) % 256 := BitVec.toNat_add z s.x
    rw [← hsum] at hlo
    rw [← Nat.mod_add_mod, ← hsum] at hhi
    rw [s.resolve_uncrossed (by simp [MemOperand.mode]), ← wordOf_eq, ← State.zeroPagePointer_eq hlo hhi]
    rfl
  · have hpointer := State.zeroPagePointer_eq hlo hhi
    have hpage : (wordOf hi lo).toNat / 256 = hi.toNat := by rw [← toNat_hiByte, hiByte_wordOf]
    rw [← toNat_wordOf, ← add_index_eq, ← hpage, ← pageDiffers_add_index, ← hpointer]
    rfl

end Sys2Proof.Machine
end

section
/-! SUPPORT and PROOFS. The run to a stop address (70_reset_and_hazards.md R194): it ends at the first end its steps
reach. -/

namespace Sys2Proof.Machine

open Sys2Proof.Safety

/-! ### What a boundary says of a run -/

theorem State.atStop_iff (s : State) (stop : Addr) : s.atStop stop = true ↔ AtStop stop s := by
  simp only [State.atStop, AtStop, Bool.and_eq_true, beq_iff_eq, State.event_eq_instruction_iff,
    State.holdsSelfJump_iff, and_assoc]

theorem runEnd_eq_ended_iff {s t : State} {stop : Addr} : s.runEnd stop = .ended t ↔ s = t ∧ AtStop stop t := by
  rcases s.runEnd_cases stop with ⟨f, hf, hr⟩ | ⟨-, hstop, hr⟩ | ⟨-, hstop, hr⟩
  · refine ⟨fun h => (by cases hr.symm.trans h), ?_⟩
    rintro ⟨rfl, -, hruns, -⟩
    cases hf.symm.trans hruns.1
  · refine ⟨fun h => ?_, ?_⟩
    · cases hr.symm.trans h
      exact ⟨rfl, (s.atStop_iff stop).mp hstop⟩
    · rintro ⟨rfl, -⟩
      exact hr
  · refine ⟨fun h => (by cases hr.symm.trans h), ?_⟩
    rintro ⟨rfl, hat⟩
    cases hstop.symm.trans ((s.atStop_iff stop).mpr hat)

theorem runEnd_eq_failed_iff {s : State} {stop : Addr} {f : Fault} : s.runEnd stop = .failed f ↔ s.fault = some f := by
  rcases s.runEnd_cases stop with ⟨g, hg, hr⟩ | ⟨hnone, -, hr⟩ | ⟨hnone, -, hr⟩ <;> simp [*]

/-! ### The end of a run -/

/-- Within `n` steps the run reaches a boundary that says `e` of it, and no stop before that. -/
def ReachesEnd (stop : Addr) (e : RunEnd) (n : Nat) (s : State) : Prop :=
  ∃ k ≤ n, ∃ u, s.steps k = some u ∧ u.runEnd stop = e ∧ ∀ j < k, ∀ v, s.steps j = some v → ¬AtStop stop v

section

variable {s t : State} {stop : Addr} {e : RunEnd} {n : Nat}

/-- A run that has ended or failed goes no further. -/
theorem reachesEnd_of_runEnd (h : s.runEnd stop ≠ .going s) : ReachesEnd stop e n s ↔ s.runEnd stop = e := by
  refine ⟨?_, fun he => ⟨0, Nat.zero_le n, s, rfl, he, fun j hj => absurd hj (Nat.not_lt_zero j)⟩⟩
  rintro ⟨k, -, u, hu, he, hbefore⟩
  cases k with
  | zero =>
    cases hu
    exact he
  | succ k =>
    rcases s.runEnd_cases stop with ⟨f, hf, -⟩ | ⟨-, hstop, -⟩ | ⟨-, -, hr⟩
    · cases (State.steps_succ_of_fault hf k).symm.trans hu
    · exact absurd ((s.atStop_iff stop).mp hstop) (hbefore 0 (Nat.succ_pos k) s rfl)
    · exact absurd hr h

/-- A run that goes on reaches what the run from its next state reaches in one step less. -/
theorem reachesEnd_succ (hgo : s.runEnd stop = .going s) (hstep : step s = .next t) (he : e ≠ .going s) :
    ReachesEnd stop e (n + 1) s ↔ ReachesEnd stop e n t := by
  have hnot : ¬AtStop stop s := fun hat => by cases hgo.symm.trans (runEnd_eq_ended_iff.mpr ⟨rfl, hat⟩)
  constructor
  · rintro ⟨k, hk, u, hu, hend, hbefore⟩
    cases k with
    | zero =>
      cases hu
      exact absurd (hend.symm.trans hgo) he
    | succ k =>
      refine ⟨k, Nat.le_of_succ_le_succ hk, u, State.steps_succ hstep k ▸ hu, hend, fun j hj v hv => ?_⟩
      exact hbefore (j + 1) (Nat.succ_lt_succ hj) v ((State.steps_succ hstep j).trans hv)
  · rintro ⟨k, hk, u, hu, hend, hbefore⟩
    refine ⟨k + 1, Nat.succ_le_succ hk, u, (State.steps_succ hstep k).trans hu, hend, fun j hj v hv => ?_⟩
    cases j with
    | zero =>
      cases hv
      exact hnot
    | succ j => exact hbefore j (Nat.lt_of_succ_lt_succ hj) v (State.steps_succ hstep j ▸ hv)

/-- A run comes to an end exactly if its steps reach that end before any stop. -/
theorem runTo_eq_iff (he : ∀ u, e ≠ .going u) : s.runTo stop n = e ↔ ReachesEnd stop e n s := by
  induction n generalizing s with
  | zero =>
    refine ⟨fun h => ⟨0, le_rfl, s, rfl, h, fun j hj => absurd hj (Nat.not_lt_zero j)⟩, ?_⟩
    rintro ⟨k, hk, u, hu, hend, -⟩
    obtain rfl := Nat.le_zero.mp hk
    cases hu
    exact hend
  | succ n ih =>
    by_cases hgo : s.runEnd stop = .going s
    · have hrunning : s.fault = none := by
        rcases s.runEnd_cases stop with ⟨f, -, hr⟩ | ⟨hnone, -⟩ | ⟨hnone, -⟩
        · cases hgo.symm.trans hr
        · exact hnone
        · exact hnone
      obtain ⟨t, hstep, -⟩ := exists_stepTaken hrunning
      rw [State.runTo_succ hgo hstep, ih, reachesEnd_succ hgo hstep (he s)]
    · rw [State.runTo_of_runEnd hgo, reachesEnd_of_runEnd hgo]

theorem runTo_eq_ended_iff : s.runTo stop n = .ended t ↔
    ∃ k ≤ n, s.steps k = some t ∧ AtStop stop t ∧ ∀ j < k, ∀ u, s.steps j = some u → ¬AtStop stop u := by
  rw [runTo_eq_iff (by simp)]
  simp only [ReachesEnd, runEnd_eq_ended_iff]
  constructor
  · rintro ⟨k, hk, u, hu, ⟨rfl, hat⟩, hbefore⟩
    exact ⟨k, hk, hu, hat, hbefore⟩
  · rintro ⟨k, hk, hu, hat, hbefore⟩
    exact ⟨k, hk, t, hu, ⟨rfl, hat⟩, hbefore⟩

theorem runTo_eq_failed_iff {f : Fault} : s.runTo stop n = .failed f ↔
    ∃ k ≤ n, ∃ u, s.steps k = some u ∧ u.fault = some f ∧ ∀ j < k, ∀ v, s.steps j = some v → ¬AtStop stop v := by
  rw [runTo_eq_iff (by simp)]
  simp only [ReachesEnd, runEnd_eq_failed_iff]

/-- A run that has come to an end has it with more fuel too. -/
theorem runTo_of_le {m : Nat} (he : ∀ u, e ≠ .going u) (h : s.runTo stop n = e) (hle : n ≤ m) : s.runTo stop m = e := by
  obtain ⟨k, hk, hreached⟩ := (runTo_eq_iff he).mp h
  exact (runTo_eq_iff he).mpr ⟨k, hk.trans hle, hreached⟩

/-- A run has one end at most. -/
theorem runTo_end_unique {e' : RunEnd} {m : Nat} (he : ∀ u, e ≠ .going u) (he' : ∀ u, e' ≠ .going u)
    (h : s.runTo stop n = e) (h' : s.runTo stop m = e') : e = e' :=
  (runTo_of_le he h (Nat.le_max_left n m)).symm.trans (runTo_of_le he' h' (Nat.le_max_right n m))

end

/-! ### The stop -/

theorem encode_jmpAbs (addr : Addr) : encode (.jmpAbs addr) = [0x4C, loByte addr, hiByte addr] := by
  have hopcode : (Instr.jmpAbs addr).opcode = 0x4C :=
    opcode_of_decodeOpcode (e := ⟨0x4C, .jmp, .abs, .jump, 3, false⟩) (by decide +kernel) rfl rfl
  rw [encode, hopcode]
  rfl

/-- A step from a stop runs the jump there, which goes on where it is. -/
theorem step_of_atStop {s : State} {stop : Addr} (h : AtStop stop s) :
    step s = .next { s with inputs := s.inputs.tail, cyc := 3 } := by
  obtain ⟨rfl, hruns, hopcode, hlow, hhigh⟩ := h
  have hstored : ∀ k (hk : k < (encode (.jmpAbs s.pc)).length),
      s.peek (s.pc + BitVec.ofNat 16 k) = some (encode (.jmpAbs s.pc))[k] := by
    simp only [encode_jmpAbs]
    intro k hk
    match k, hk with
    | 0, _ => exact (congrArg s.peek (BitVec.add_zero s.pc)).trans hopcode
    | 1, _ => exact hlow
    | 2, _ => exact hhigh
  obtain ⟨hstep, hlatch⟩ := stepRunsTheStoredInstruction s _ hruns hstored
  rw [hstep, hlatch]
  rfl

/-- Settles O60: the end of a run is the first its steps reach, and the stop's jump to itself keeps the run there. -/
theorem runEndsAtTheFirstStop : Obligations.RunEndsAtTheFirstStop := by
  refine ⟨State.atStop_iff, fun _ _ _ _ => runTo_eq_ended_iff, fun _ _ _ _ => runTo_eq_failed_iff,
    fun s stop n f hfailed m t hended => ?_, fun s stop hat => ⟨step_of_atStop hat, fun hedge hline => ?_⟩⟩
  · cases runTo_end_unique (by simp) (by simp) hfailed hended
  · obtain ⟨hpc, ⟨hs, hpending, -, -⟩, hjump⟩ := hat
    exact ⟨hpc, ⟨hs, hpending, hedge, hline⟩, hjump⟩

end Sys2Proof.Machine
end

section
/-! SUPPORT and PROOFS. The cartridge load (70_reset_and_hazards.md section 2): when an image is accepted, and what an
accepted one stores where. -/

namespace Sys2Proof.Machine

open Sys2Proof.Safety

/-! ### Acceptance -/

/-- A load answers a state exactly where every check passes (70_reset_and_hazards.md R190, R191). -/
theorem load_eq_ok_iff {s t : State} {image : List Byte} : s.load (some image) = .ok t ↔
    16 ≤ image.length ∧ image.take 4 = headerMagic ∧ newerFormat (headerOf image) = false ∧
      mapperId (headerOf image) = 0 ∧ ∃ banks, prgBanksOf (headerOf image).prgBanks = some banks ∧
        programOffset (headerOf image) + prgBankCount banks * 16384 ≤ image.length ∧
        s.storeImage (headerOf image) banks image = t := by
  unfold State.load
  dsimp only
  split_ifs with hlength hmagic hnewer hmapper
  · simp [hlength]
  · simp [hmagic]
  · simp [hnewer]
  · exact ⟨nofun, fun ⟨_, _, _, hzero, _⟩ => absurd hzero hmapper⟩
  · cases prgBanksOf (headerOf image).prgBanks with
    | none => simp
    | some banks =>
      by_cases hprogram : image.length < programOffset (headerOf image) + prgBankCount banks * 16384
      · simp [hprogram]
      · dsimp only
        rw [if_neg hprogram]
        simp_all

/-- The bits that tell the newer format (70_reset_and_hazards.md R189). -/
theorem newerFormat_eq_false_iff (h : Header) : newerFormat h = false ↔ h.flags7.toNat / 4 % 4 ≠ 2 := by
  have hbits : ∀ v : Byte, ((v >>> 2) &&& 3 == 2) = false ↔ v.toNat / 4 % 4 ≠ 2 := by decide +kernel
  exact hbits h.flags7

/-- The mapper's number is in the two high halves (70_reset_and_hazards.md R189). -/
theorem mapperId_eq_zero_iff (h : Header) :
    mapperId h = 0 ↔ h.flags7.toNat / 16 * 16 + h.flags6.toNat / 16 = 0 := by
  have hhigh : ∀ v : Byte, v &&& 0xF0 = 0#8 ↔ v.toNat / 16 * 16 = 0 := by decide +kernel
  have hlow : ∀ v : Byte, v >>> 4 = 0#8 ↔ v.toNat / 16 = 0 := by decide +kernel
  rw [mapperId, Nat.add_eq_zero_iff, ← hhigh, ← hlow]
  exact BitVec.or_eq_zero_iff

theorem hasTrainer_eq (h : Header) : hasTrainer h = decide (h.flags6.toNat / 4 % 2 = 1) :=
  Nat.testBit_eq_decide_div_mod_eq

theorem programOffset_eq (h : Header) :
    programOffset h = 16 + if h.flags6.toNat / 4 % 2 = 1 then 512 else 0 := by
  rw [programOffset, hasTrainer_eq]
  simp only [decide_eq_true_eq]
  split <;> rfl

/-- A bank count is accepted where it is 1 or 2, and is then the number of banks (70_reset_and_hazards.md R191). -/
theorem prgBanksOf_eq_some_iff {count : Byte} {banks : PrgBanks} :
    prgBanksOf count = some banks ↔ count = match banks with | .one => 1 | .two => 2 := by
  unfold prgBanksOf
  cases banks <;> split_ifs <;> simp_all

theorem toNat_of_prgBanksOf {count : Byte} {banks : PrgBanks} (h : prgBanksOf count = some banks) :
    count.toNat = prgBankCount banks := by
  rw [prgBanksOf_eq_some_iff.mp h]
  cases banks <;> rfl

/-- Settles O59: the checks, each as the statement's numbers. -/
theorem loadIsRefusedExactlyForTheListedDefects : Obligations.LoadIsRefusedExactlyForTheListedDefects := by
  refine fun s => ⟨rfl, fun image => ?_⟩
  have hcount : (∃ banks, prgBanksOf (image.getD 4 0) = some banks ∧
        programOffset (headerOf image) + prgBankCount banks * 16384 ≤ image.length) ↔
      (image.getD 4 0 = 1 ∨ image.getD 4 0 = 2) ∧
        16 + (if (image.getD 6 0).toNat / 4 % 2 = 1 then 512 else 0) + (image.getD 4 0).toNat * 16384 ≤
          image.length := by
    rw [programOffset_eq]
    constructor
    · rintro ⟨banks, hbanks, hlength⟩
      rw [toNat_of_prgBanksOf hbanks]
      refine ⟨?_, hlength⟩
      cases banks
      · exact .inl (prgBanksOf_eq_some_iff.mp hbanks)
      · exact .inr (prgBanksOf_eq_some_iff.mp hbanks)
    · rintro ⟨hone | htwo, hlength⟩
      · have hbanks : prgBanksOf (image.getD 4 0) = some .one := prgBanksOf_eq_some_iff.mpr hone
        exact ⟨.one, hbanks, toNat_of_prgBanksOf hbanks ▸ hlength⟩
      · have hbanks : prgBanksOf (image.getD 4 0) = some .two := prgBanksOf_eq_some_iff.mpr htwo
        exact ⟨.two, hbanks, toNat_of_prgBanksOf hbanks ▸ hlength⟩
  have hnewer_iff : newerFormat (headerOf image) = false ↔ (image.getD 7 0).toNat / 4 % 4 ≠ 2 :=
    newerFormat_eq_false_iff _
  have hmapper_iff : mapperId (headerOf image) = 0 ↔
      (image.getD 7 0).toNat / 16 * 16 + (image.getD 6 0).toNat / 16 = 0 := mapperId_eq_zero_iff _
  rw [← hcount, ← hnewer_iff, ← hmapper_iff]
  constructor
  · rintro ⟨t, hload⟩
    obtain ⟨hlength, hmagic, hnewer, hmapper, banks, hbanks, hprogram, -⟩ := load_eq_ok_iff.mp hload
    exact ⟨hlength, hmagic, hnewer, hmapper, banks, hbanks, hprogram⟩
  · rintro ⟨hlength, hmagic, hnewer, hmapper, banks, hbanks, hprogram⟩
    exact ⟨_, load_eq_ok_iff.mpr ⟨hlength, hmagic, hnewer, hmapper, banks, hbanks, hprogram, rfl⟩⟩

/-! ### What is stored -/

/-- The bytes of the trainer, none where there is no trainer (70_reset_and_hazards.md R190, step 3). -/
def trainerBytes (h : Header) (image : List Byte) : List Byte :=
  if hasTrainer h then (image.drop 16).take 512 else []

/-- The bytes of the program (70_reset_and_hazards.md R190, step 4). -/
def programBytes (h : Header) (banks : PrgBanks) (image : List Byte) : List Byte :=
  (image.drop (programOffset h)).take (prgBankCount banks * 16384)

theorem storeImage_mem (s : State) (h : Header) (banks : PrgBanks) (image : List Byte) :
    (s.storeImage h banks image).mem =
      copyBytes (copyBytes s.mem 0x7000 (trainerBytes h image)) 0x8000 (programBytes h banks image) := rfl

theorem length_slice {l : List Byte} {start n : Nat} (h : start + n ≤ l.length) :
    ((l.drop start).take n).length = n := by
  rw [List.length_take, List.length_drop]
  omega

theorem getElem_slice {l : List Byte} {start n k : Nat} (hk : k < ((l.drop start).take n).length) :
    ((l.drop start).take n)[k] = l.getD (start + k) 0 := by
  have hlt : start + k < l.length := by
    rw [List.length_take, List.length_drop] at hk
    omega
  rw [List.getElem_take, List.getElem_drop, List.getD_eq_getElem l 0 hlt]

theorem trainerBytes_length_le (h : Header) (image : List Byte) : (trainerBytes h image).length ≤ 512 := by
  unfold trainerBytes
  split
  · exact List.length_take_le _ _
  · exact Nat.zero_le _

theorem prgBankCount_le (banks : PrgBanks) : prgBankCount banks ≤ 2 := by cases banks <;> decide

section

variable {s : State} {h : Header} {banks : PrgBanks} {image : List Byte}

/-- A load keeps the canonical form. -/
theorem storeImage_wf (hm : s.mem.wf = true) : (s.storeImage h banks image).mem.wf = true := by
  have htrainer := trainerBytes_length_le h image
  have hbanks := prgBankCount_le banks
  have hprogram : (programBytes h banks image).length ≤ prgBankCount banks * 16384 := List.length_take_le _ _
  rw [storeImage_mem]
  exact copyBytes_wf (copyBytes_wf hm (by omega)) (by omega)

/-- The cells that hold the program after a load. -/
theorem read_storeImage_program (hm : s.mem.wf = true)
    (hlength : programOffset h + prgBankCount banks * 16384 ≤ image.length) {k : Nat}
    (hk : k < prgBankCount banks * 16384) :
    (s.storeImage h banks image).mem.read (0x8000 + k) = image.getD (programOffset h + k) 0 := by
  have htrainer := trainerBytes_length_le h image
  have hbanks := prgBankCount_le banks
  have hprogram : (programBytes h banks image).length = prgBankCount banks * 16384 := length_slice hlength
  rw [storeImage_mem, read_copyBytes (copyBytes_wf hm (by omega)) (by omega) (by omega)]
  exact getElem_slice _

/-- The cells that hold the trainer after a load. -/
theorem read_storeImage_trainer (hm : s.mem.wf = true) (ht : hasTrainer h = true) (hlength : 528 ≤ image.length)
    {k : Nat} (hk : k < 512) : (s.storeImage h banks image).mem.read (0x7000 + k) = image.getD (16 + k) 0 := by
  have htrainer : trainerBytes h image = (image.drop 16).take 512 := if_pos ht
  have hslice : ((image.drop 16).take 512).length = 512 := length_slice hlength
  rw [storeImage_mem, htrainer, read_copyBytes_other _ (by omega), read_copyBytes hm (by omega) (by omega)]
  exact getElem_slice _

/-- Every other cell is as it was. -/
theorem read_storeImage_other {c : Nat} (hc : c < 0x8000 ∨ 0x8000 + prgBankCount banks * 16384 ≤ c)
    (ht : hasTrainer h = true → c < 0x7000 ∨ 0x7200 ≤ c) : (s.storeImage h banks image).mem.read c = s.mem.read c := by
  have hprogram : (programBytes h banks image).length ≤ prgBankCount banks * 16384 := List.length_take_le _ _
  have htrainer : c < 0x7000 ∨ 0x7000 + (trainerBytes h image).length ≤ c := by
    by_cases hh : hasTrainer h = true
    · have hle := trainerBytes_length_le h image
      have hout := ht hh
      omega
    · rw [trainerBytes, if_neg hh, List.length_nil]
      omega
  rw [storeImage_mem, read_copyBytes_other _ (by omega), read_copyBytes_other _ htrainer]

end

/-- A read of the cartridge region, with the address as a number (20_memory.md R51). -/
theorem State.busRead_program (s : State) {k : Nat} (hk : k < 0x8000) :
    s.busRead (BitVec.ofNat 16 (0x8000 + k)) = s.mem.read (0x8000 + k % (prgBankCount s.cfg.prgBanks * 0x4000)) := by
  have haddr : (BitVec.ofNat 16 (0x8000 + k)).toNat = 0x8000 + k := by
    rw [BitVec.toNat_ofNat]
    omega
  rw [State.busRead_cartridge (by omega), State.mapperRead, mapperCell, haddr, Nat.add_sub_cancel_left]

/-- A read of a plain address, with the address as a number (20_memory.md R49). -/
theorem State.busRead_plain (s : State) {c : Nat} (h1 : 0x4000 ≤ c) (h2 : c < 0x8000) :
    s.busRead (BitVec.ofNat 16 c) = s.mem.read c := by
  have haddr : (BitVec.ofNat 16 c).toNat = c := by
    rw [BitVec.toNat_ofNat]
    omega
  rw [State.busRead_of_cell (cell_plain (by omega) (by omega)), haddr]

theorem prgBankCount_pos (banks : PrgBanks) : 0 < prgBankCount banks := by cases banks <;> decide

/-- The program is read from $8000 on, and shows again after its last byte (70_reset_and_hazards.md R190, 20_memory.md
R51). -/
theorem busRead_storeImage {s : State} {h : Header} {banks : PrgBanks} {image : List Byte} (hm : s.mem.wf = true)
    (hlength : programOffset h + prgBankCount banks * 16384 ≤ image.length) {k : Nat} (hk : k < 0x8000) :
    (s.storeImage h banks image).busRead (BitVec.ofNat 16 (0x8000 + k)) =
      image.getD (programOffset h + k % (prgBankCount banks * 16384)) 0 := by
  rw [State.busRead_program _ hk]
  exact read_storeImage_program hm hlength (Nat.mod_lt k (Nat.mul_pos (prgBankCount_pos banks) (by decide)))

/-- Settles O58: the program, the trainer and the rest of memory, each read where its cells are. -/
theorem loadedProgramIsReadAtItsAddresses : Obligations.LoadedProgramIsReadAtItsAddresses := by
  intro s t image trainer start hm hload htrainer hstart
  obtain ⟨-, -, -, -, banks, hbanks, hlength, rfl⟩ := load_eq_ok_iff.mp hload
  obtain rfl : programOffset (headerOf image) = start := by
    rw [hstart, htrainer]
    rfl
  have hread (k : Nat) (hk : k < 0x8000) := busRead_storeImage (banks := banks) hm hlength hk
  refine ⟨rfl, storeImage_wf hm, ?_, fun hone k hk => ?_, fun htwo k hk => ?_, fun ht k hk => ?_, fun c hc ht => ?_,
    rfl⟩
  · exact ⟨fun hone => Option.some.inj (hbanks.symm.trans (prgBanksOf_eq_some_iff.mpr hone)),
      fun hone => prgBanksOf_eq_some_iff.mp (hbanks.trans (congrArg some hone))⟩
  · obtain rfl : banks = .one := hone
    have hlow : k % (prgBankCount .one * 16384) = k := Nat.mod_eq_of_lt hk
    have hmirror : (0x4000 + k) % (prgBankCount .one * 16384) = k := (Nat.add_mod_left _ k).trans hlow
    refine ⟨(hread k (by omega)).trans (by rw [hlow]), ?_⟩
    rw [show 0xC000 + k = 0x8000 + (0x4000 + k) by omega, hread _ (by omega), hmirror]
  · obtain rfl : banks = .two := htwo
    have hlow : k % (prgBankCount .two * 16384) = k := Nat.mod_eq_of_lt hk
    exact (hread k hk).trans (by rw [hlow])
  · have hhas : hasTrainer (headerOf image) = true := htrainer.symm.trans ht
    have hoffset : programOffset (headerOf image) = 528 := if_pos hhas
    rw [State.busRead_plain _ (by omega) (by omega)]
    exact read_storeImage_trainer hm hhas (by omega) hk
  · refine read_storeImage_other ?_ fun hhas => ht (htrainer.trans hhas)
    have hsize := prgBankCount_le banks
    rcases hc with hlow | ⟨hone, hc⟩ | hc
    · exact .inl hlow
    · obtain rfl : banks = .one := hone
      exact .inr hc
    · omega

end Sys2Proof.Machine
end
